-- ==== Sys2Proof/Word.lean ====
section
/-! DEFINITION. The machine's words and their plainest conversions (spec/00_scope.md R6, R8, R9). -/

namespace Sys2Proof

/-- An 8-bit value: a general register, a timer, a memory cell, the literal KK (R8, R20, R34). -/
abbrev Byte := BitVec 8

/-- A 16-bit value: PC, I, a return address, an instruction word (R6, R9). -/
abbrev Word := BitVec 16

/-- One hexadecimal digit of an instruction word: an opcode, a function code, the count N (R71, R72). -/
abbrev Nibble := BitVec 4

/-- A 4-bit register number, the field X or Y: 0 to 15 name V0 to VF with no translation (R20, R72). -/
abbrev Reg := BitVec 4

/-- The 12-bit literal NNN (R72). -/
abbrev Addr := BitVec 12

/-- `zext_16` of a byte (R9). -/
def Byte.toWord (b : Byte) : Word := b.setWidth 16

/-- `zext_16(NNN)`, 0x0000 to 0x0FFF (R9, R73). -/
def Addr.toWord (nnn : Addr) : Word := nnn.setWidth 16

end Sys2Proof
end

