-- ==== Sys2Proof/Syntax.lean ====
section
/-! DEFINITION. The instruction set: one constructor per row of spec/opcode_table.json, in the order of the table
(spec/30_encoding.md R76). Operand fields have exactly the widths of R72. -/

namespace Sys2Proof

/-- The 34 instructions. A constructor's docstring gives its pattern and the rule that gives it its meaning. -/
inductive Instr where
  /-- 00E0 CLS (R135) -/
  | cls
  /-- 00EE RET (R101) -/
  | ret
  /-- 1NNN JP addr (R109) -/
  | jpAddr (nnn : Addr)
  /-- 2NNN CALL addr (R102) -/
  | callAddr (nnn : Addr)
  /-- 3XKK SE Vx, byte (R103) -/
  | seVxByte (x : Reg) (kk : Byte)
  /-- 4XKK SNE Vx, byte (R104) -/
  | sneVxByte (x : Reg) (kk : Byte)
  /-- 5XY0 SE Vx, Vy (R105) -/
  | seVxVy (x y : Reg)
  /-- 6XKK LD Vx, byte (R111) -/
  | ldVxByte (x : Reg) (kk : Byte)
  /-- 7XKK ADD Vx, byte (R112) -/
  | addVxByte (x : Reg) (kk : Byte)
  /-- 8XY0 LD Vx, Vy (R113) -/
  | ldVxVy (x y : Reg)
  /-- 8XY1 OR Vx, Vy (R114) -/
  | orVxVy (x y : Reg)
  /-- 8XY2 AND Vx, Vy (R115) -/
  | andVxVy (x y : Reg)
  /-- 8XY3 XOR Vx, Vy (R121) -/
  | xorVxVy (x y : Reg)
  /-- 8XY4 ADD Vx, Vy (R116) -/
  | addVxVy (x y : Reg)
  /-- 8XY5 SUB Vx, Vy (R117) -/
  | subVxVy (x y : Reg)
  /-- 8XY6 SHR Vx (R118); the field Y is part of the word and ignored by the meaning (R80) -/
  | shrVx (x y : Reg)
  /-- 8XY7 SUBN Vx, Vy (R119) -/
  | subnVxVy (x y : Reg)
  /-- 8XYE SHL Vx (R120); the field Y is part of the word and ignored by the meaning (R80) -/
  | shlVx (x y : Reg)
  /-- 9XY0 SNE Vx, Vy (R106) -/
  | sneVxVy (x y : Reg)
  /-- ANNN LD I, addr (R125) -/
  | ldIAddr (nnn : Addr)
  /-- BNNN JP V0, addr (R108) -/
  | jpV0Addr (nnn : Addr)
  /-- CXKK RND Vx, byte (R140) -/
  | rndVxByte (x : Reg) (kk : Byte)
  /-- DXYN DRW Vx, Vy, nibble (R136) -/
  | drwVxVyNibble (x y : Reg) (n : Nibble)
  /-- EX9E SKP Vx (R141) -/
  | skpVx (x : Reg)
  /-- EXA1 SKNP Vx (R142) -/
  | sknpVx (x : Reg)
  /-- FX07 LD Vx, DT (R143) -/
  | ldVxDT (x : Reg)
  /-- FX0A LD Vx, K (R144) -/
  | ldVxK (x : Reg)
  /-- FX15 LD DT, Vx (R145) -/
  | ldDTVx (x : Reg)
  /-- FX18 LD ST, Vx (R146) -/
  | ldSTVx (x : Reg)
  /-- FX1E ADD I, Vx (R126) -/
  | addIVx (x : Reg)
  /-- FX29 LD F, Vx (R127) -/
  | ldFVx (x : Reg)
  /-- FX33 LD B, Vx (R128) -/
  | ldBVx (x : Reg)
  /-- FX55 LD [I], Vx (R130) -/
  | ldMemVx (x : Reg)
  /-- FX65 LD Vx, [I] (R131) -/
  | ldVxMem (x : Reg)
  deriving DecidableEq, Repr

/-- The name of an instruction's row in spec/opcode_table.json, letter for letter (R82). -/
def Instr.mnemonic : Instr → String
  | .cls => "CLS"
  | .ret => "RET"
  | .jpAddr _ => "JP_addr"
  | .callAddr _ => "CALL_addr"
  | .seVxByte _ _ => "SE_Vx__byte"
  | .sneVxByte _ _ => "SNE_Vx__byte"
  | .seVxVy _ _ => "SE_Vx__Vy"
  | .ldVxByte _ _ => "LD_Vx__byte"
  | .addVxByte _ _ => "ADD_Vx__byte"
  | .ldVxVy _ _ => "LD_Vx__Vy"
  | .orVxVy _ _ => "OR_Vx__Vy"
  | .andVxVy _ _ => "AND_Vx__Vy"
  | .xorVxVy _ _ => "XOR_Vx__Vy"
  | .addVxVy _ _ => "ADD_Vx__Vy"
  | .subVxVy _ _ => "SUB_Vx__Vy"
  | .shrVx _ _ => "SHR_Vx"
  | .subnVxVy _ _ => "SUBN_Vx__Vy"
  | .shlVx _ _ => "SHL_Vx"
  | .sneVxVy _ _ => "SNE_Vx__Vy"
  | .ldIAddr _ => "LD_I__addr"
  | .jpV0Addr _ => "JP_V0__addr"
  | .rndVxByte _ _ => "RND_Vx__byte"
  | .drwVxVyNibble _ _ _ => "DRW_Vx__Vy__nibble"
  | .skpVx _ => "SKP_Vx"
  | .sknpVx _ => "SKNP_Vx"
  | .ldVxDT _ => "LD_Vx__DT"
  | .ldVxK _ => "LD_Vx__K"
  | .ldDTVx _ => "LD_DT__Vx"
  | .ldSTVx _ => "LD_ST__Vx"
  | .addIVx _ => "ADD_I__Vx"
  | .ldFVx _ => "LD_F__Vx"
  | .ldBVx _ => "LD_B__Vx"
  | .ldMemVx _ => "LD__I___Vx"
  | .ldVxMem _ => "LD_Vx___I"

end Sys2Proof
end

