-- ==== Sys2Proof/Decode.lean ====
section
/-! DEFINITION. The decoder (spec/30_encoding.md R70 to R80), the encoder written from the same table, the opcode table
of R76 as data, and the reading of a word as spec/opcode_table.json numbers its bits. -/

namespace Sys2Proof

/-! ### Fields (R72) -/

/-- p, `w[15:12]`: the primary opcode. -/
def fieldP (w : Word) : Nibble := w.extractLsb' 12 4

/-- X, `w[11:8]`. -/
def fieldX (w : Word) : Reg := w.extractLsb' 8 4

/-- Y, `w[7:4]`. -/
def fieldY (w : Word) : Reg := w.extractLsb' 4 4

/-- N or the function code f, `w[3:0]`. -/
def fieldN (w : Word) : Nibble := w.extractLsb' 0 4

/-- KK or the function code ff, `w[7:0]`. -/
def fieldKK (w : Word) : Byte := w.extractLsb' 0 8

/-- NNN, `w[11:0]`. -/
def fieldNNN (w : Word) : Addr := w.extractLsb' 0 12

/-! ### Decoding (R74, R75) -/

/-- Why a word is rejected: it matches no row of R76 (R78). -/
inductive DecodeError where
  /-- The word is one of the unknown words of R79. -/
  | unknownInstruction (w : Word)
  deriving DecidableEq, Repr

/-- The words with p = 8, selected by `w[3:0]` (R75). -/
def decode8 (w : Word) : Except DecodeError Instr :=
  match (fieldN w).toNat with
  | 0x0 => .ok (.ldVxVy (fieldX w) (fieldY w))
  | 0x1 => .ok (.orVxVy (fieldX w) (fieldY w))
  | 0x2 => .ok (.andVxVy (fieldX w) (fieldY w))
  | 0x3 => .ok (.xorVxVy (fieldX w) (fieldY w))
  | 0x4 => .ok (.addVxVy (fieldX w) (fieldY w))
  | 0x5 => .ok (.subVxVy (fieldX w) (fieldY w))
  | 0x6 => .ok (.shrVx (fieldX w) (fieldY w))
  | 0x7 => .ok (.subnVxVy (fieldX w) (fieldY w))
  | 0xE => .ok (.shlVx (fieldX w) (fieldY w))
  | _ => .error (.unknownInstruction w)

/-- The words with p = E, selected by `w[7:0]` (R75). -/
def decodeE (w : Word) : Except DecodeError Instr :=
  match (fieldKK w).toNat with
  | 0x9E => .ok (.skpVx (fieldX w))
  | 0xA1 => .ok (.sknpVx (fieldX w))
  | _ => .error (.unknownInstruction w)

/-- The words with p = F, selected by `w[7:0]` (R75). -/
def decodeF (w : Word) : Except DecodeError Instr :=
  match (fieldKK w).toNat with
  | 0x07 => .ok (.ldVxDT (fieldX w))
  | 0x0A => .ok (.ldVxK (fieldX w))
  | 0x15 => .ok (.ldDTVx (fieldX w))
  | 0x18 => .ok (.ldSTVx (fieldX w))
  | 0x1E => .ok (.addIVx (fieldX w))
  | 0x29 => .ok (.ldFVx (fieldX w))
  | 0x33 => .ok (.ldBVx (fieldX w))
  | 0x55 => .ok (.ldMemVx (fieldX w))
  | 0x65 => .ok (.ldVxMem (fieldX w))
  | _ => .error (.unknownInstruction w)

/-- The decoder: the opcode map of R75, a pure function of the word (R74). -/
def decode (w : Word) : Except DecodeError Instr :=
  match (fieldP w).toNat with
  | 0x0 => if w = 0x00E0 then .ok .cls else if w = 0x00EE then .ok .ret else .error (.unknownInstruction w)
  | 0x1 => .ok (.jpAddr (fieldNNN w))
  | 0x2 => .ok (.callAddr (fieldNNN w))
  | 0x3 => .ok (.seVxByte (fieldX w) (fieldKK w))
  | 0x4 => .ok (.sneVxByte (fieldX w) (fieldKK w))
  | 0x5 => if fieldN w = 0 then .ok (.seVxVy (fieldX w) (fieldY w)) else .error (.unknownInstruction w)
  | 0x6 => .ok (.ldVxByte (fieldX w) (fieldKK w))
  | 0x7 => .ok (.addVxByte (fieldX w) (fieldKK w))
  | 0x8 => decode8 w
  | 0x9 => if fieldN w = 0 then .ok (.sneVxVy (fieldX w) (fieldY w)) else .error (.unknownInstruction w)
  | 0xA => .ok (.ldIAddr (fieldNNN w))
  | 0xB => .ok (.jpV0Addr (fieldNNN w))
  | 0xC => .ok (.rndVxByte (fieldX w) (fieldKK w))
  | 0xD => .ok (.drwVxVyNibble (fieldX w) (fieldY w) (fieldN w))
  | 0xE => decodeE w
  | _ => decodeF w

/-- The instruction word of two bytes in the order they stand in memory: the first is the high half (R53, R70). -/
def wordOfBytes (hi lo : Byte) : Word := hi ++ lo

/-- Decoding of the two bytes of an instruction, first byte first (R53, R70, R74). -/
def decodeBytes (hi lo : Byte) : Except DecodeError Instr := decode (wordOfBytes hi lo)

/-! ### Encoding (R71, R76) -/

/-- Format A: `pNNN`. -/
def formatA (p : Nibble) (nnn : Addr) : Word := p ++ nnn

/-- Format K: `pXKK`; with a function code for KK it is format S, `pXff`. -/
def formatK (p : Nibble) (x : Reg) (kk : Byte) : Word := p ++ (x ++ kk)

/-- Format R: `pXYf`; with a count for f it is format D, `DXYN`. -/
def formatR (p : Nibble) (x y : Reg) (f : Nibble) : Word := p ++ (x ++ (y ++ f))

/-- The word of an instruction, from its row of R76. -/
def encode : Instr → Word
  | .cls => 0x00E0
  | .ret => 0x00EE
  | .jpAddr nnn => formatA 0x1 nnn
  | .callAddr nnn => formatA 0x2 nnn
  | .seVxByte x kk => formatK 0x3 x kk
  | .sneVxByte x kk => formatK 0x4 x kk
  | .seVxVy x y => formatR 0x5 x y 0x0
  | .ldVxByte x kk => formatK 0x6 x kk
  | .addVxByte x kk => formatK 0x7 x kk
  | .ldVxVy x y => formatR 0x8 x y 0x0
  | .orVxVy x y => formatR 0x8 x y 0x1
  | .andVxVy x y => formatR 0x8 x y 0x2
  | .xorVxVy x y => formatR 0x8 x y 0x3
  | .addVxVy x y => formatR 0x8 x y 0x4
  | .subVxVy x y => formatR 0x8 x y 0x5
  | .shrVx x y => formatR 0x8 x y 0x6
  | .subnVxVy x y => formatR 0x8 x y 0x7
  | .shlVx x y => formatR 0x8 x y 0xE
  | .sneVxVy x y => formatR 0x9 x y 0x0
  | .ldIAddr nnn => formatA 0xA nnn
  | .jpV0Addr nnn => formatA 0xB nnn
  | .rndVxByte x kk => formatK 0xC x kk
  | .drwVxVyNibble x y n => formatR 0xD x y n
  | .skpVx x => formatK 0xE x 0x9E
  | .sknpVx x => formatK 0xE x 0xA1
  | .ldVxDT x => formatK 0xF x 0x07
  | .ldVxK x => formatK 0xF x 0x0A
  | .ldDTVx x => formatK 0xF x 0x15
  | .ldSTVx x => formatK 0xF x 0x18
  | .addIVx x => formatK 0xF x 0x1E
  | .ldFVx x => formatK 0xF x 0x29
  | .ldBVx x => formatK 0xF x 0x33
  | .ldMemVx x => formatK 0xF x 0x55
  | .ldVxMem x => formatK 0xF x 0x65

/-! ### The opcode table of R76 as data -/

/-- One row of R76: a word `w` is this instruction exactly when `w AND mask = bits`. -/
structure OpcodeRow where
  /-- The row's mnemonic in spec/opcode_table.json. -/
  mnemonic : String
  /-- The column `match`. -/
  bits : Word
  /-- The column `mask`. -/
  mask : Word
  deriving DecidableEq, Repr

/-- Does the word have the row's fixed digits (R74)? -/
def OpcodeRow.accepts (r : OpcodeRow) (w : Word) : Bool := w &&& r.mask == r.bits

/-- Rows 1 to 19 of R76. -/
def opcodeRowsLow : List OpcodeRow :=
  [⟨"CLS", 0x00E0, 0xFFFF⟩, ⟨"RET", 0x00EE, 0xFFFF⟩, ⟨"JP_addr", 0x1000, 0xF000⟩, ⟨"CALL_addr", 0x2000, 0xF000⟩,
   ⟨"SE_Vx__byte", 0x3000, 0xF000⟩, ⟨"SNE_Vx__byte", 0x4000, 0xF000⟩, ⟨"SE_Vx__Vy", 0x5000, 0xF00F⟩,
   ⟨"LD_Vx__byte", 0x6000, 0xF000⟩, ⟨"ADD_Vx__byte", 0x7000, 0xF000⟩, ⟨"LD_Vx__Vy", 0x8000, 0xF00F⟩,
   ⟨"OR_Vx__Vy", 0x8001, 0xF00F⟩, ⟨"AND_Vx__Vy", 0x8002, 0xF00F⟩, ⟨"XOR_Vx__Vy", 0x8003, 0xF00F⟩,
   ⟨"ADD_Vx__Vy", 0x8004, 0xF00F⟩, ⟨"SUB_Vx__Vy", 0x8005, 0xF00F⟩, ⟨"SHR_Vx", 0x8006, 0xF00F⟩,
   ⟨"SUBN_Vx__Vy", 0x8007, 0xF00F⟩, ⟨"SHL_Vx", 0x800E, 0xF00F⟩, ⟨"SNE_Vx__Vy", 0x9000, 0xF00F⟩]

/-- Rows 20 to 34 of R76. -/
def opcodeRowsHigh : List OpcodeRow :=
  [⟨"LD_I__addr", 0xA000, 0xF000⟩, ⟨"JP_V0__addr", 0xB000, 0xF000⟩, ⟨"RND_Vx__byte", 0xC000, 0xF000⟩,
   ⟨"DRW_Vx__Vy__nibble", 0xD000, 0xF000⟩, ⟨"SKP_Vx", 0xE09E, 0xF0FF⟩, ⟨"SKNP_Vx", 0xE0A1, 0xF0FF⟩,
   ⟨"LD_Vx__DT", 0xF007, 0xF0FF⟩, ⟨"LD_Vx__K", 0xF00A, 0xF0FF⟩, ⟨"LD_DT__Vx", 0xF015, 0xF0FF⟩,
   ⟨"LD_ST__Vx", 0xF018, 0xF0FF⟩, ⟨"ADD_I__Vx", 0xF01E, 0xF0FF⟩, ⟨"LD_F__Vx", 0xF029, 0xF0FF⟩,
   ⟨"LD_B__Vx", 0xF033, 0xF0FF⟩, ⟨"LD__I___Vx", 0xF055, 0xF0FF⟩, ⟨"LD_Vx___I", 0xF065, 0xF0FF⟩]

/-- The 34 rows of R76, in its order. -/
def opcodeTable : List OpcodeRow := opcodeRowsLow ++ opcodeRowsHigh

/-! ### The numbering of spec/opcode_table.json -/

/-- The 16-bit word of an instruction whose bits are `w` numbered as spec/opcode_table.json numbers them: every
instruction is one 16-bit word (R70), bit 0 its least significant bit; bits at and above `nbits` are 0. -/
def tableWord (nbits w : Nat) : Word := BitVec.ofNat 16 (w % 2 ^ nbits)

/-- The byte at the lower address of a word stored as the hardware stores it (R53). -/
def highByte (w : Word) : Byte := w.extractLsb' 8 8

/-- The byte at the higher address (R53). -/
def lowByte (w : Word) : Byte := w.extractLsb' 0 8

/-- The instruction the decoder reads from the table word's two bytes; none where it refuses. -/
def decodeTableWord (nbits w : Nat) : Option Instr :=
  match decodeBytes (highByte (tableWord nbits w)) (lowByte (tableWord nbits w)) with
  | .ok i => some i
  | .error _ => none

end Sys2Proof
end

