-- ==== Sys2Proof/Machine/Flags.lean ====
section
/-! DEFINITION. The flag computations: what VF receives from 8XY4 to 8XYE and DXYN (spec/10_state.md R22,
spec/42_alu.md R123). VF is the only status flag; no instruction reads it as a condition. -/

namespace Sys2Proof.Machine

/-- "A flag value is the 8-bit number 0 or 1" (R22). -/
def flagByte (b : Bool) : Byte := if b then 1 else 0

/-- 8XY4: does vx + vy, taken exactly, exceed 255? (R116) -/
def carryFlag (vx vy : Byte) : Byte := flagByte (decide (vx.toNat + vy.toNat > 255))

/-- 8XY5 with a = vx, b = vy and 8XY7 with a = vy, b = vx: the strict comparison a > b (R117, R119, R123). -/
def greaterFlag (a b : Byte) : Byte := flagByte (decide (a.toNat > b.toNat))

/-- 8XY6: bit 0 of vx, the bit shifted out (R118). -/
def lowBitFlag (vx : Byte) : Byte := flagByte (vx.getLsbD 0)

/-- 8XYE: bit 7 of vx, the bit shifted out (R120). -/
def highBitFlag (vx : Byte) : Byte := flagByte (vx.getLsbD 7)

/-- DXYN: 1 if any pixel went from 1 to 0 (R136). -/
def collisionFlag (hit : Bool) : Byte := flagByte hit

end Sys2Proof.Machine
end

