-- ==== Sys2Proof/Config.lean ====
section
/-! DEFINITION. The fixed values of the hardware (spec/00_scope.md R6) and the one free value, the random byte
(spec/00_scope.md R7, spec/45_random_keys_timers.md R140). The two other open values of R7 are data of the state:
the resolution is the register RES and the font is carried beside it (Machine/State.lean). -/

namespace Sys2Proof.Config

/-- MEM_SIZE: the memory has 4096 bytes (R6, R34). -/
def memSize : Nat := 4096

/-- ENTRY: the first byte of a program and the first fetch after RESET stand at 0x200 (R6, R36). -/
def entry : Nat := 0x200

/-- MAX_IMAGE: MEM_SIZE − ENTRY = 3584 bytes (R6, R176). -/
def maxImage : Nat := memSize - entry

/-- The length of FONT: 16 glyphs of 5 bytes (R7, R27). -/
def fontBytes : Nat := 80

/-- RES of the pair (64, 32), `0x4020` (R32). DESIGN CHOICE (log entry 4): the resolution `State.reset` is made with;
unsafe where a claim rests on the size of the screen. -/
def defaultRes : Word := 0x4020

/-- The random byte of CXKK: a free value (R7, R35, R140). `rnd n` is the byte the `n`-th CXKK draws. It has no body
that a proof could look into, so a claim holds for every sequence of draws. DESIGN CHOICE (log entry 2), safe. -/
opaque rnd : Nat → Byte

end Sys2Proof.Config
end

