-- ==== Sys2Proof/Machine/Font.lean ====
section
/-! DEFINITION. FONT, the open value of spec/00_scope.md R7: the 80 glyph bytes RESET installs at 0x000 to 0x04F. -/

namespace Sys2Proof.Machine

/-- FONT: 16 glyphs of 5 bytes (R7, R27). -/
abbrev Font := Vector Byte 80

/-- The glyphs of the digits 0 to 7 in the default FONT (R27). -/
def defaultFontLow : Vector Byte 40 :=
  #v[0xF0, 0x90, 0x90, 0x90, 0xF0, 0x20, 0x60, 0x20, 0x20, 0x70,
     0xF0, 0x10, 0xF0, 0x80, 0xF0, 0xF0, 0x10, 0xF0, 0x10, 0xF0,
     0x90, 0x90, 0xF0, 0x10, 0x10, 0xF0, 0x80, 0xF0, 0x10, 0xF0,
     0xF0, 0x80, 0xF0, 0x90, 0xF0, 0xF0, 0x10, 0x20, 0x40, 0x40]

/-- The glyphs of the digits 8 to F in the default FONT (R27). -/
def defaultFontHigh : Vector Byte 40 :=
  #v[0xF0, 0x90, 0xF0, 0x90, 0xF0, 0xF0, 0x90, 0xF0, 0x10, 0xF0,
     0xF0, 0x90, 0xF0, 0x90, 0x90, 0xE0, 0x90, 0xE0, 0x90, 0xE0,
     0xF0, 0x80, 0x80, 0x80, 0xF0, 0xE0, 0x90, 0x90, 0x90, 0xE0,
     0xF0, 0x80, 0xF0, 0x80, 0xF0, 0xF0, 0x80, 0xF0, 0x80, 0x80]

/-- The default value of FONT, the table of R27. PRESUMED (log entry 3): the spec marks these bytes as general
knowledge, so no claim may rest on a glyph's shape; unsafe where one does. -/
def defaultFont : Font := defaultFontLow ++ defaultFontHigh

end Sys2Proof.Machine
end

