-- ==== Sys2Proof/WellFormed.lean ====
section
/-! DEFINITION. The checks a term has to pass before the spec gives it a meaning. Every term of `Instr` is a
well-formed instruction: its fields are bit vectors of exactly the widths of spec/30_encoding.md R72, every value of a
field is legal (R21, R80), and no encoding is reserved. What can be ill-formed is what comes from outside: a listing's
instruction (R82), and the arguments of RESET and SET_KEY (spec/70_reset_and_hazards.md R175, R176,
spec/60_exceptions.md R167). -/

namespace Sys2Proof

/-- Can a listing write this instruction? "`SHR Vx` and `SHL Vx` encode Y = 0"; every other instruction can be written
(R82). A decoder accepts any Y, so the machine runs the others too. -/
def Instr.assemblable : Instr → Bool
  | .shrVx _ y | .shlVx _ y => y == 0
  | .cls | .ret | .jpAddr _ | .callAddr _ | .seVxByte _ _ | .sneVxByte _ _ | .seVxVy _ _ | .ldVxByte _ _
  | .addVxByte _ _ | .ldVxVy _ _ | .orVxVy _ _ | .andVxVy _ _ | .xorVxVy _ _ | .addVxVy _ _ | .subVxVy _ _
  | .subnVxVy _ _ | .sneVxVy _ _ | .ldIAddr _ | .jpV0Addr _ | .rndVxByte _ _ | .drwVxVyNibble _ _ _
  | .skpVx _ | .sknpVx _ | .ldVxDT _ | .ldVxK _ | .ldDTVx _ | .ldSTVx _ | .addIVx _ | .ldFVx _ | .ldBVx _
  | .ldMemVx _ | .ldVxMem _ => true

/-- The screen width W, `RES[15:8]` (R32). -/
def resWidth (res : Word) : Nat := (res.extractLsb' 8 8).toNat

/-- The screen height H, `RES[7:0]` (R32). -/
def resHeight (res : Word) : Nat := (res.extractLsb' 0 8).toNat

/-- The constraint on the open value RES: W and H are 1 to 255 (R7). The upper bounds hold by the fields' widths. -/
def resSupported (res : Word) : Bool := decide (1 ≤ resWidth res) && decide (1 ≤ resHeight res)

/-- The size check of RESET: at most 3584 bytes (R176). -/
def imageFits (image : List Byte) : Bool := decide (image.length ≤ Config.maxImage)

/-- The key numbers of SET_KEY are 0 to 15 (R167). -/
def keyNumberOk (index : Nat) : Bool := decide (index < 16)

end Sys2Proof
end

