-- ==== Sys2Proof/Machine/State.lean ====
section
/-! DEFINITION. The Machine State (spec/10_state.md R20 to R37) as plain data, the reasons an operation can stop, and
the state after reset (R36). -/

namespace Sys2Proof.Machine

/-- MEM as a list of (address, byte): addresses strictly rising, all below 4096, and no entry equal to what an unlisted
address reads as (Machine/Memory.lean). -/
abbrev Memory := List Host.Cell

/-- FB as its rows, top row first; a row is its cells, column 0 first (R30, R137). -/
abbrev Screen := List (List Bool)

/-- The complete mutable state of the machine (R2), with two fields of the model's own: `font`, the open value FONT of
R7, constant for the life of the machine, and `draws`, which counts the random bytes drawn (R35). -/
structure State where
  /-- V0 to VF (R20). -/
  v : Vector Byte 16
  /-- PC: between steps the address of the next instruction, during a step that of the instruction executed (R23). -/
  pc : Word
  /-- I, the index register (R24). -/
  i : Word
  /-- SP: how many return addresses the stack holds, 0 to 16; 17 to 31 never occur (R25). -/
  sp : Fin 17
  /-- STACK[0] to STACK[15] (R29). -/
  stack : Vector Word 16
  /-- DT, the delay timer (R26). -/
  dt : Byte
  /-- ST, the sound timer (R28). -/
  st : Byte
  /-- KEY[0] to KEY[15], true when pressed (R31). -/
  key : Vector Bool 16
  /-- RES: `RES[15:8]` = W, `RES[7:0]` = H (R32). -/
  res : Word
  /-- FB, H rows of W cells (R30). -/
  fb : Screen
  /-- MEM, 4096 bytes (R34). -/
  mem : Memory
  /-- ERR: bit 0 UNK, bit 1 SOVF, bit 2 SUNF, sticky (R33). -/
  err : BitVec 3
  /-- FONT, the open value of R7; no operation changes it (log entry 3). -/
  font : Font
  /-- How many random bytes CXKK has drawn: the model's own field (log entry 2). -/
  draws : Nat
  deriving DecidableEq, Repr

/-- Why an operation stops with a failure of the hardware's. STEP has none: "STEP always completes" (R98). -/
inductive Fault where
  /-- LoadError, code 3: RESET with an image of more than 3584 bytes (R154, R176). Raised by RESET only; no state
  changes. Safe: the spec states it. -/
  | loadError
  deriving DecidableEq, Repr

/-- Why an operation has no meaning. STEP of a machine that was reset is never refused. -/
inductive Refusal where
  /-- An instruction without a meaning; raised by an arm of `exec` only. Safe. No arm raises it. -/
  | notModelled (mnemonic : String)
  /-- STEP, TICK or SET_KEY before the first successful RESET, which R177 does not admit. Raised by `perform`. Safe. -/
  | notReset
  /-- RESET with a width or a height of 0, outside the constraint of R7. Raised by `reset`. Safe. DESIGN CHOICE (log
  entry 6). -/
  | unsupportedResolution
  deriving DecidableEq, Repr

/-- The three outcomes of an operation of this machine. -/
abbrev Result := Host.Outcome State Fault Refusal

/-- FB of W × H cells, all 0 (R36, R135). -/
def Screen.blank (w h : Nat) : Screen := List.replicate h (List.replicate w false)

/-- The state of the table of R36 for an empty image, any font and any resolution. `draws` goes on counting across a
RESET (log entry 2). -/
def State.cleared (font : Font) (draws : Nat) (res : Word) : State where
  v := Vector.replicate 16 0
  pc := 0x0200
  i := 0x0000
  sp := 0
  stack := Vector.replicate 16 0x0000
  dt := 0
  st := 0
  key := Vector.replicate 16 false
  res := res
  fb := Screen.blank (resWidth res) (resHeight res)
  mem := []
  err := 0
  font := font
  draws := draws

/-- The machine after RESET((64, 32), no bytes) with the default FONT. DESIGN CHOICE: the resolution, the empty image and
`draws` (log entries 2 and 4). PRESUMED: the font's bytes (log entry 3). Every other field is as R36 says. -/
def State.reset : State := State.cleared defaultFont 0 Config.defaultRes

end Sys2Proof.Machine
end

