-- ==== Sys2Proof/Machine/Memory.lean ====
section
/-! DEFINITION. MEM as canonical data: lookup, write, and what an unlisted address reads as
(spec/20_memory.md R50 to R56, spec/10_state.md R36). Addresses here are already reduced to 0 to 4095. -/

namespace Sys2Proof.Machine

/-- What an address that no entry lists reads as: the reset contents of MEM, FONT at 0x000 to 0x04F and 0x00 elsewhere
(R36, R51). -/
def Memory.unlisted (font : Font) (a : Nat) : Byte := if h : a < 80 then font[a] else 0x00

/-- The byte listed at an address, if one is. -/
def Memory.find : Memory → Nat → Option Byte
  | [], _ => none
  | (b, v) :: rest, a => if b = a then some v else Memory.find rest a

/-- The byte at an address (R56). -/
def Memory.read (font : Font) (m : Memory) (a : Nat) : Byte :=
  match Memory.find m a with
  | some v => v
  | none => Memory.unlisted font a

/-- The list with the byte at `a` listed as `v`, addresses still rising. -/
def Memory.insert : Memory → Nat → Byte → Memory
  | [], a, v => [(a, v)]
  | (b, w) :: rest, a, v =>
    if a < b then (a, v) :: (b, w) :: rest
    else if a = b then (a, v) :: rest
    else (b, w) :: Memory.insert rest a v

/-- The list with nothing listed at `a`. -/
def Memory.remove (m : Memory) (a : Nat) : Memory := m.filter fun c => c.1 != a

/-- The memory after a byte is written: in canonical form again, so that equal memories are equal lists. -/
def Memory.write (font : Font) (m : Memory) (a : Nat) (v : Byte) : Memory :=
  if v = Memory.unlisted font a then Memory.remove m a else Memory.insert m a v

/-- The canonical form: addresses strictly rising and below 4096 (R39: "no write ever targets an address ≥ memory
size"), and no entry equal to what an unlisted address reads as. -/
abbrev Memory.wf (font : Font) (m : Memory) : Prop :=
  m.Pairwise (fun p q => p.1 < q.1) ∧ ∀ c ∈ m, c.1 < Config.memSize ∧ c.2 ≠ Memory.unlisted font c.1

end Sys2Proof.Machine
end

