-- ==== Sys2Proof/Machine/Operands.lean ====
section
/-! DEFINITION. The operand forms beside a plain register or literal: effective addresses, the key a register names, the
glyph a register names, decimal digits, and the bits of a sprite row. -/

namespace Sys2Proof.Machine

/-- The effective address of an access: the computed address modulo 4096 (R12, R52, R132). -/
def effectiveAddress (addr : Nat) : Nat := addr % Config.memSize

/-- The address of the byte at a small offset from I (R132), not yet reduced. -/
def indexed (i0 : Word) (offset : Nat) : Nat := i0.toNat + offset

/-- The key a register value names: "the key numbered by the low 4 bits of the value" (R147). -/
def keyNumber (vx : Byte) : Fin 16 := ⟨vx.toNat % 16, Nat.mod_lt _ (by decide)⟩

/-- FX29's address, 5 × `zext_16(vx)`, the whole 8-bit value (R127). -/
def glyphAddress (vx : Byte) : Word := 5 * Byte.toWord vx

/-- FX33's hundreds digit, vx div 100 (R128). -/
def hundreds (vx : Byte) : Byte := BitVec.ofNat 8 (vx.toNat / 100)

/-- FX33's tens digit, (vx div 10) mod 10 (R128). -/
def tens (vx : Byte) : Byte := BitVec.ofNat 8 (vx.toNat / 10 % 10)

/-- FX33's ones digit, vx mod 10 (R128). -/
def ones (vx : Byte) : Byte := BitVec.ofNat 8 (vx.toNat % 10)

/-- The bit of a sprite row at sprite column c: bit 7 is column 0, the leftmost (R137). -/
def spriteBit (row : Byte) (c : Nat) : Bool := row.getLsbD (7 - c)

/-- The framebuffer coordinate of a sprite's column c, or row c, on a screen of that size: reduced modulo the size, the
starting coordinate included (R137). -/
def wrapped (start : Byte) (c size : Nat) : Nat := (start.toNat + c) % size

end Sys2Proof.Machine
end

