-- ==== Sys2Proof/Machine/Ops.lean ====
section
/-! DEFINITION. The named operations over registers, memory, stack, framebuffer and ERR that every meaning is written
with. -/

namespace Sys2Proof.Machine

/-! ### Registers (R20 to R33) -/

/-- `V[x]` (R10). -/
def State.reg (s : State) (x : Reg) : Byte := s.v[x.toNat]'x.isLt

/-- `V[x] <- b`: no register is hard-wired (R20). -/
def State.setReg (s : State) (x : Reg) (b : Byte) : State := { s with v := s.v.set x.toNat b x.isLt }

/-- VF, register 15 (R10, R22). -/
def vf : Reg := 0xF

/-- `I <- w`, all 16 bits kept (R24). -/
def State.setI (s : State) (w : Word) : State := { s with i := w }

/-- `DT <- b` (R26). -/
def State.setDT (s : State) (b : Byte) : State := { s with dt := b }

/-- `ST <- b` (R28). -/
def State.setST (s : State) (b : Byte) : State := { s with st := b }

/-- `KEY[k]` (R31). -/
def State.keyDown (s : State) (k : Fin 16) : Bool := s.key[k]

/-- W of RES (R32). -/
def State.width (s : State) : Nat := resWidth s.res

/-- H of RES (R32). -/
def State.height (s : State) : Nat := resHeight s.res

/-! ### The program counter (R13, R92, R100): sums are modulo 65536 -/

/-- `pc <- target` (R13). -/
def State.jump (s : State) (target : Word) : State := { s with pc := target }

/-- The default, `pc <- PC + 2` (R92). -/
def State.advance (s : State) : State := s.jump (s.pc + 2)

/-- Skip the next instruction if the condition holds: `pc <- PC + 4`, else the default (R100). -/
def State.skipIf (s : State) (c : Bool) : State := s.jump (if c then s.pc + 4 else s.pc + 2)

/-! ### Memory (R12, R52, R56) -/

/-- `MemRead(addr, 1)`: the address is reduced modulo 4096 and the read has no effect (R12). -/
def State.memRead (s : State) (addr : Nat) : Byte := Memory.read s.font s.mem (effectiveAddress addr)

/-- `MemWrite(addr, 1, b)` (R12). -/
def State.memWrite (s : State) (addr : Nat) (b : Byte) : State :=
  { s with mem := Memory.write s.font s.mem (effectiveAddress addr) b }

/-- `MemRead(PC, 2)`: the byte at PC is the high half, each address reduced on its own (R53, R91). -/
def State.fetch (s : State) : Word := wordOfBytes (s.memRead s.pc.toNat) (s.memRead (s.pc.toNat + 1))

/-- The bytes of a program image placed from an address up, in order (R65, R175). -/
def State.loadBytes (s : State) (addr : Nat) : List Byte → State
  | [] => s
  | b :: rest => (s.memWrite addr b).loadBytes (addr + 1) rest

/-- FX55's stores: `MemWrite(i0 + k, 1, V[k])` for k = 0 to n − 1, ascending (R130). -/
def State.storeRegs (s : State) (n : Nat) : State :=
  (List.range n).foldl (fun t k => t.memWrite (indexed s.i k) (s.reg (BitVec.ofNat 4 k))) s

/-- FX65's loads: `V[k] <- MemRead(i0 + k, 1)` for k = 0 to n − 1, ascending (R131). -/
def State.loadRegs (s : State) (n : Nat) : State :=
  (List.range n).foldl (fun t k => t.setReg (BitVec.ofNat 4 k) (s.memRead (indexed s.i k))) s

/-! ### Flag and result (R11, R122): two writes in the order the row lists them; the later one stands -/

/-- The order of 8XY4: the result to `V[x]`, then the flag to VF. -/
def State.resultThenFlag (s : State) (x : Reg) (result flag : Byte) : State := (s.setReg x result).setReg vf flag

/-- The order of 8XY5, 8XY6, 8XY7 and 8XYE: the flag to VF, then the result to `V[x]`. -/
def State.flagThenResult (s : State) (x : Reg) (flag result : Byte) : State := (s.setReg vf flag).setReg x result

/-! ### Execution conditions (R14, R150 to R158): the one way this machine takes an exception. It has no trap entry, no
saved state and no trap return: a condition sets its sticky bit and control goes on at PC + 2. -/

/-- The conditions a STEP can raise (R150). -/
inductive Condition where
  /-- The fetched word matches no pattern; the word itself is not recorded (R151). -/
  | unknownInstruction
  /-- 2NNN with SP = 16 (R152). -/
  | stackOverflow
  /-- 00EE with SP = 0 (R153). -/
  | stackUnderflow
  deriving DecidableEq, Repr

/-- A condition's code, which is its bit number in ERR (R150). -/
def Condition.code : Condition → Nat
  | .unknownInstruction => 0
  | .stackOverflow => 1
  | .stackUnderflow => 2

/-- The code of LoadError, RESET's failure (R150). -/
def loadErrorCode : Nat := 3

/-- A condition's sticky bit in ERR (R33). -/
def Condition.mask (c : Condition) : BitVec 3 := 1 <<< c.code

/-- Is the sticky bit of a condition set (R33)? -/
def State.raised (s : State) (c : Condition) : Bool := s.err.getLsbD c.code

/-- `raise C`: the sticky bit of C is set, `pc <- PC + 2`, and nothing else changes (R14). -/
def State.raiseCondition (s : State) (c : Condition) : State := { s with err := s.err ||| c.mask, pc := s.pc + 2 }

/-! ### The call stack (R25, R29) -/

/-- A push: writes `STACK[SP]`, then adds 1 to SP (R29). -/
def State.push (s : State) (w : Word) (h : s.sp.val < 16) : State :=
  { s with stack := s.stack.set s.sp.val w h, sp := ⟨s.sp.val + 1, by omega⟩ }

/-- The return from a subroutine with n + 1 addresses on the stack: SP becomes n and PC receives `STACK[n]`, the new
top's slot, which keeps its value (R29, R101). -/
def State.popTo (s : State) (n : Nat) (h : n < 16) : State := { s with sp := ⟨n, by omega⟩, pc := s.stack[n] }

/-! ### The framebuffer (R30, R135 to R137) -/

/-- The cell in column x and row y; a cell that does not exist reads as 0 and is reached by no instruction of a machine
whose framebuffer has W × H cells. -/
def Screen.pixel (fb : Screen) (x y : Nat) : Bool := ((fb[y]?.getD [])[x]?).getD false

/-- `FB[x, y] <- b`. -/
def Screen.setPixel (fb : Screen) (x y : Nat) (b : Bool) : Screen := fb.modify y fun row => row.set x b

/-- FB[x, y] (R30). -/
def State.pixel (s : State) (x y : Nat) : Bool := s.fb.pixel x y

/-- What a blit carries from pixel to pixel: the framebuffer and whether a set pixel was turned off so far. -/
abbrev Blit := Screen × Bool

/-- One pixel of a sprite: a bit of 1 flips the cell and collides if it was set; a bit of 0 does nothing (R136). -/
def Blit.dot (acc : Blit) (px py : Nat) (bit : Bool) : Blit :=
  if bit then (acc.1.setPixel px py (!acc.1.pixel px py), acc.2 || acc.1.pixel px py) else acc

/-- One row of a sprite, columns 0 to 7 (R136, R137). -/
def Blit.row (acc : Blit) (w : Nat) (vx : Byte) (py : Nat) (b : Byte) : Blit :=
  (List.range 8).foldl (fun a c => a.dot (wrapped vx c w) py (spriteBit b c)) acc

/-- The sprite of n rows at `MEM[I]`, drawn with its corner at (vx, vy): the framebuffer after, and the collision
computed once for the whole sprite (R136). -/
def State.blit (s : State) (vx vy : Byte) (n : Nat) : Blit :=
  (List.range n).foldl
    (fun a r => a.row s.width vx (wrapped vy r s.height) (s.memRead (indexed s.i r))) (s.fb, false)

/-- `FB <- fb`. -/
def State.setFB (s : State) (fb : Screen) : State := { s with fb := fb }

/-! ### Keys and the random byte -/

/-- "The least k in 0 to 15 with KEY[k] = 1", if a key is pressed (R144). -/
def State.firstKey (s : State) : Option (Fin 16) := (List.finRange 16).find? fun k => s.keyDown k

/-- CXKK's effect with the random byte r: `V[x] <- r AND kk`; the count of draws goes up (R140; log entry 2). -/
def State.takeRandom (s : State) (x : Reg) (kk r : Byte) : State := { s.setReg x (r &&& kk) with draws := s.draws + 1 }

end Sys2Proof.Machine
end

