-- ==== Sys2Proof/Machine/Alu.lean ====
section
/-! DEFINITION. Register loads and 8-bit ALU instructions (spec/42_alu.md R110 to R123). Every operand is read before
anything is written (spec/00_scope.md R11); each instruction ends with the default `pc <- PC + 2`. -/

namespace Sys2Proof.Machine

/-- 6XKK LD Vx, byte (R111). -/
def execLdVxByte (x : Reg) (kk : Byte) (s : State) : Result := .next (s.setReg x kk).advance

/-- 7XKK ADD Vx, byte: the carry is discarded (R112). -/
def execAddVxByte (x : Reg) (kk : Byte) (s : State) : Result := .next (s.setReg x (s.reg x + kk)).advance

/-- 8XY0 LD Vx, Vy (R113). -/
def execLdVxVy (x y : Reg) (s : State) : Result := .next (s.setReg x (s.reg y)).advance

/-- 8XY1 OR Vx, Vy: VF is not touched (R114). -/
def execOrVxVy (x y : Reg) (s : State) : Result := .next (s.setReg x (s.reg x ||| s.reg y)).advance

/-- 8XY2 AND Vx, Vy: VF is not touched (R115). -/
def execAndVxVy (x y : Reg) (s : State) : Result := .next (s.setReg x (s.reg x &&& s.reg y)).advance

/-- 8XY3 XOR Vx, Vy: VF is not touched (R121). -/
def execXorVxVy (x y : Reg) (s : State) : Result := .next (s.setReg x (s.reg x ^^^ s.reg y)).advance

/-- 8XY4 ADD Vx, Vy: the sum, then the carry (R116). -/
def execAddVxVy (x y : Reg) (s : State) : Result :=
  .next (s.resultThenFlag x (s.reg x + s.reg y) (carryFlag (s.reg x) (s.reg y))).advance

/-- 8XY5 SUB Vx, Vy: the flag, then vx − vy (R117). -/
def execSubVxVy (x y : Reg) (s : State) : Result :=
  .next (s.flagThenResult x (greaterFlag (s.reg x) (s.reg y)) (s.reg x - s.reg y)).advance

/-- 8XY6 SHR Vx: the flag, then vx shifted right by one; V[Y] is neither read nor written (R118). -/
def execShrVx (x _y : Reg) (s : State) : Result :=
  .next (s.flagThenResult x (lowBitFlag (s.reg x)) (s.reg x >>> 1)).advance

/-- 8XY7 SUBN Vx, Vy: the flag, then vy − vx (R119). -/
def execSubnVxVy (x y : Reg) (s : State) : Result :=
  .next (s.flagThenResult x (greaterFlag (s.reg y) (s.reg x)) (s.reg y - s.reg x)).advance

/-- 8XYE SHL Vx: the flag, then vx shifted left by one; V[Y] is neither read nor written (R120). -/
def execShlVx (x _y : Reg) (s : State) : Result :=
  .next (s.flagThenResult x (highBitFlag (s.reg x)) (s.reg x <<< 1)).advance

end Sys2Proof.Machine
end

