-- ==== Sys2Proof/Machine/Control.lean ====
section
/-! DEFINITION. Control flow: return, call, skips and jumps (spec/41_control_flow.md R100 to R109). -/

namespace Sys2Proof.Machine

/-- 00EE RET: pops the return address into PC; on an empty stack StackUnderflow (R101). -/
def execRet (s : State) : Result :=
  if h : s.sp.val = 0 then .next (s.raiseCondition .stackUnderflow)
  else .next (s.popTo (s.sp.val - 1) (by omega))

/-- 1NNN JP addr (R109). -/
def execJpAddr (nnn : Addr) (s : State) : Result := .next (s.jump (Addr.toWord nnn))

/-- 2NNN CALL addr: pushes PC + 2 and jumps; on a full stack StackOverflow (R102). -/
def execCallAddr (nnn : Addr) (s : State) : Result :=
  if h : s.sp.val < 16 then .next ((s.push (s.pc + 2) h).jump (Addr.toWord nnn))
  else .next (s.raiseCondition .stackOverflow)

/-- 3XKK SE Vx, byte (R103). -/
def execSeVxByte (x : Reg) (kk : Byte) (s : State) : Result := .next (s.skipIf (s.reg x == kk))

/-- 4XKK SNE Vx, byte (R104). -/
def execSneVxByte (x : Reg) (kk : Byte) (s : State) : Result := .next (s.skipIf (s.reg x != kk))

/-- 5XY0 SE Vx, Vy (R105). -/
def execSeVxVy (x y : Reg) (s : State) : Result := .next (s.skipIf (s.reg x == s.reg y))

/-- 9XY0 SNE Vx, Vy (R106). -/
def execSneVxVy (x y : Reg) (s : State) : Result := .next (s.skipIf (s.reg x != s.reg y))

/-- BNNN JP V0, addr: always V0; the sum is not reduced to 12 bits (R108). -/
def execJpV0Addr (nnn : Addr) (s : State) : Result := .next (s.jump (Addr.toWord nnn + Byte.toWord (s.reg 0)))

end Sys2Proof.Machine
end

