-- ==== Sys2Proof/Machine/Display.lean ====
section
/-! DEFINITION. Display instructions (spec/44_display.md R135 to R139). -/

namespace Sys2Proof.Machine

/-- 00E0 CLS: every cell of FB becomes 0 (R135). -/
def execCls (s : State) : Result := .next (s.setFB (Screen.blank s.width s.height)).advance

/-- DXYN DRW Vx, Vy, nibble: the sprite by XOR, then the collision to VF (R136). -/
def execDrwVxVyNibble (x y : Reg) (n : Nibble) (s : State) : Result :=
  let drawn := s.blit (s.reg x) (s.reg y) n.toNat
  .next ((s.setFB drawn.1).setReg vf (collisionFlag drawn.2)).advance

end Sys2Proof.Machine
end

