-- ==== Sys2Proof/Machine/Environment.lean ====
section
/-! DEFINITION. Random, keypad and timer instructions (spec/45_random_keys_timers.md R140 to R148). -/

namespace Sys2Proof.Machine

/-- CXKK RND Vx, byte: the step's random byte masked (R140). The byte is a free value (log entry 2). -/
def execRndVxByte (x : Reg) (kk : Byte) (s : State) : Result := .next (s.takeRandom x kk (Config.rnd s.draws)).advance

/-- EX9E SKP Vx (R141, R147). -/
def execSkpVx (x : Reg) (s : State) : Result := .next (s.skipIf (s.keyDown (keyNumber (s.reg x))))

/-- EXA1 SKNP Vx (R142, R147). -/
def execSknpVx (x : Reg) (s : State) : Result := .next (s.skipIf (!s.keyDown (keyNumber (s.reg x))))

/-- FX07 LD Vx, DT (R143). -/
def execLdVxDT (x : Reg) (s : State) : Result := .next (s.setReg x s.dt).advance

/-- FX0A LD Vx, K: with no key pressed the step changes no state at all; else the least pressed key (R144). -/
def execLdVxK (x : Reg) (s : State) : Result :=
  match s.firstKey with
  | none => .next s
  | some k => .next (s.setReg x (BitVec.ofNat 8 k.val)).advance

/-- FX15 LD DT, Vx (R145). -/
def execLdDTVx (x : Reg) (s : State) : Result := .next (s.setDT (s.reg x)).advance

/-- FX18 LD ST, Vx (R146). -/
def execLdSTVx (x : Reg) (s : State) : Result := .next (s.setST (s.reg x)).advance

end Sys2Proof.Machine
end

