-- ==== Sys2Proof/Machine/Index.lean ====
section
/-! DEFINITION. Index-register and memory instructions (spec/43_index_memory.md R125 to R132). I is changed by ANNN,
FX1E and FX29 only. -/

namespace Sys2Proof.Machine

/-- ANNN LD I, addr (R125). -/
def execLdIAddr (nnn : Addr) (s : State) : Result := .next (s.setI (Addr.toWord nnn)).advance

/-- FX1E ADD I, Vx: modulo 65536, no flag (R126). -/
def execAddIVx (x : Reg) (s : State) : Result := .next (s.setI (s.i + Byte.toWord (s.reg x))).advance

/-- FX29 LD F, Vx (R127). -/
def execLdFVx (x : Reg) (s : State) : Result := .next (s.setI (glyphAddress (s.reg x))).advance

/-- FX33 LD B, Vx: hundreds, tens and ones to I, I + 1 and I + 2 (R128). -/
def execLdBVx (x : Reg) (s : State) : Result :=
  .next (((s.memWrite (indexed s.i 0) (hundreds (s.reg x))).memWrite (indexed s.i 1) (tens (s.reg x))).memWrite
    (indexed s.i 2) (ones (s.reg x))).advance

/-- FX55 LD [I], Vx: V0 to VX to memory from I up (R130). -/
def execLdMemVx (x : Reg) (s : State) : Result := .next (s.storeRegs (x.toNat + 1)).advance

/-- FX65 LD Vx, [I]: V0 to VX from memory from I up (R131). -/
def execLdVxMem (x : Reg) (s : State) : Result := .next (s.loadRegs (x.toNat + 1)).advance

end Sys2Proof.Machine
end

