-- ==== Sys2Proof/Machine/Step.lean ====
section
/-! DEFINITION. The operation STEP (spec/40_step_cycle.md R90 to R99), and the placing of one instruction where the next
STEP fetches. -/

namespace Sys2Proof.Machine

/-- STEP: fetch, decode, and perform the selected instruction once; a word that matches no pattern raises
UnknownInstruction (R99). An instruction's meaning sets PC itself, so there is nothing to commit after it (R94). -/
def step (s : State) : Host.Outcome State Fault Refusal :=
  match decode s.fetch with
  | .ok i => exec i s
  | .error _ => .next (s.raiseCondition .unknownInstruction)

/-- The state with one instruction word, its bits numbered as spec/opcode_table.json numbers them, stored in the two bytes
at PC, the high half first (R53, R70). Nothing else changes. -/
def State.withFetchWord (s : State) (nbits w : Nat) : State :=
  (s.memWrite s.pc.toNat (highByte (tableWord nbits w))).memWrite (s.pc.toNat + 1) (lowByte (tableWord nbits w))

end Sys2Proof.Machine
end

