-- ==== Sys2Proof/Machine/HostOps.lean ====
section
/-! DEFINITION. What the host can do beside STEP: RESET, TICK and SET_KEY (spec/70_reset_and_hazards.md R175 to R184,
spec/60_exceptions.md R163 to R174), what it can read: SOUND, the framebuffer and ERR; and when it takes a
run as ended. Each operation is atomic and
the host interleaves them in any order (R15, R57, R170). -/

namespace Sys2Proof.Machine

/-- A timer after one TICK: one less, floored at zero (R163, R164). -/
def ticked (t : Byte) : Byte := if t = 0 then 0 else t - 1

/-- TICK: touches nothing but DT and ST and cannot fail (R163). -/
def State.tick (s : State) : State := { s with dt := ticked s.dt, st := ticked s.st }

/-- SET_KEY(index, pressed); an index of 16 or more changes nothing (R167). -/
def State.setKey (s : State) (index : Nat) (pressed : Bool) : State :=
  if h : index < 16 then { s with key := s.key.set index pressed h } else s

/-- SOUND, the only audio output (R166). -/
def State.sound (s : State) : Bool := s.st != 0

/-- What the display sink reads: FB as a sequence of W × H cells, row by row (R30, R168). -/
def State.display (s : State) : List Bool := s.fb.flatten

/-- Has the run ended? "PC holds the address of a 1NNN whose NNN equals that address (a jump to itself)", whatever SP is
(R181). R181 leaves the end of a run to the model and states this convention of its own; that the model takes it is a
DESIGN CHOICE (log entry 11). It is the host's reading of a state: the machine does not stop, and STEP, TICK and SET_KEY
are admitted as before. -/
def State.ended (s : State) : Bool :=
  match decode s.fetch with
  | .ok (.jpAddr nnn) => s.pc == Addr.toWord nnn
  | _ => false

/-- RESET(RES, IMAGE) of a machine with that FONT (R175, R176). A resolution with a zero side is refused (R7; log entry
6); an image over 3584 bytes is a LoadError. -/
def reset (font : Font) (draws : Nat) (res : Word) (image : List Byte) : Result :=
  if !resSupported res then .refused .unsupportedResolution
  else if !imageFits image then .fault .loadError
  else .next ((State.cleared font draws res).loadBytes Config.entry image)

/-- STEP(rnd) with the byte the host gives (R90). `rnd` plays a part in CXKK only (R97, R140). The host interface's
`step` is this operation with a free byte. -/
def stepWith (rnd : Byte) (s : State) : Result :=
  match decode s.fetch with
  | .ok (.rndVxByte x kk) => .next (s.takeRandom x kk rnd).advance
  | _ => step s

/-- The four operations of R15. -/
inductive HostOp where
  /-- RESET(RES, IMAGE) (R175). -/
  | reset (res : Word) (image : List Byte)
  /-- STEP(rnd) (R90). -/
  | step (rnd : Byte)
  /-- TICK (R163). -/
  | tick
  /-- SET_KEY(index, pressed) (R167). -/
  | setKey (index : Nat) (pressed : Bool)
  deriving DecidableEq, Repr

/-- The machine with its FONT, before and after its first successful RESET: `none` is the un-reset condition, in which no
state has a value (R177). -/
structure Session where
  /-- FONT, fixed for the machine (R7). -/
  font : Font
  /-- The Machine State, once it was constructed. -/
  state : Option State
  deriving DecidableEq, Repr

/-- A session whose state becomes the outcome's. -/
def Session.outcome (c : Session) : Result → Host.Outcome Session Fault Refusal
  | .next t => .next { c with state := some t }
  | .fault r => .fault r
  | .refused r => .refused r

/-- The random bytes drawn so far; a RESET does not draw the old ones again (log entry 2). -/
def Session.draws (c : Session) : Nat :=
  match c.state with
  | some s => s.draws
  | none => 0

/-- One operation of the host (R170): its reply, with the session after it when it succeeds. Before the first successful
RESET only RESET is admitted (R177). -/
def perform (op : HostOp) (c : Session) : Host.Outcome Session Fault Refusal :=
  match op, c.state with
  | .reset res image, _ => c.outcome (reset c.font c.draws res image)
  | .step rnd, some s => c.outcome (stepWith rnd s)
  | .tick, some s => c.outcome (.next s.tick)
  | .setKey index pressed, some s => c.outcome (.next (s.setKey index pressed))
  | .step _, none => .refused .notReset
  | .tick, none => .refused .notReset
  | .setKey _ _, none => .refused .notReset

/-- The session after an operation: one that fails or is not admitted changes no state (R154, R177). -/
def Session.after (c : Session) (op : HostOp) : Session :=
  match perform op c with
  | .next d => d
  | .fault _ => c
  | .refused _ => c

/-- The session after the operations of the host in the order it gives them (R170, R174). -/
def Session.run (c : Session) (ops : List HostOp) : Session := ops.foldl Session.after c

end Sys2Proof.Machine
end

