-- ==== Sys2Proof/Safety.lean ====
section
/-! DEFINITION. The terms claims are stated in: the invariant of the machine (spec/10_state.md R39), a run without an
execution condition (spec/60_exceptions.md R155), a run that has ended (spec/70_reset_and_hazards.md R181), the access matrix (spec/10_state.md R38) and the frame it gives. -/

namespace Sys2Proof.Machine

/-! ### The invariant (R39) -/

/-- The framebuffer has exactly H rows of W cells (R30, R39). -/
def Screen.sized (fb : Screen) (w h : Nat) : Prop := fb.length = h ∧ ∀ row ∈ fb, row.length = w

/-- What R39 says of every state after RESET and the types do not say already: MEM in its canonical form, every listed
address below 4096; FB of exactly W × H cells; W and H within 1 to 255 (R7). -/
structure State.Inv (s : State) : Prop where
  mem : Memory.wf s.font s.mem
  fb : s.fb.sized s.width s.height
  res : resSupported s.res = true

/-- A session is as the rules allow: un-reset, or holding a state that meets the invariant and carries the session's
font. -/
def Session.Inv (c : Session) : Prop := ∀ s, c.state = some s → s.Inv ∧ s.font = c.font

/-! ### Safe runs (R155) -/

/-- "ERR = 0": no execution condition since RESET (R155). -/
def State.noError (s : State) : Prop := s.err = 0

/-- `n` steps that go on and raise no condition: the conservative reading of R155. -/
def safeRun : Nat → State → Prop
  | 0, _ => True
  | n + 1, s => ∃ t, step s = .next t ∧ t.err = s.err ∧ safeRun n t

/-! ### Ended runs (R181) -/

/-- The run from `s` has ended after `n` steps, in `t` (R181; log entry 11). -/
def runEnds (n : Nat) (s t : State) : Prop := Sys2Proof.core.run n s = .next t ∧ t.ended = true

/-! ### Where a sprite's bits land (R137) -/

/-- The cells (column, row) that the 1 bits of the sprite of n rows at `MEM[I]` land on when it is placed at (vx, vy), one
entry per bit, rows top first and columns left first (R137). -/
def State.litCells (s : State) (vx vy : Byte) (n : Nat) : List (Nat × Nat) :=
  (List.range n).flatMap fun r =>
    ((List.range 8).filter fun c => spriteBit (s.memRead (indexed s.i r)) c).map fun c =>
      (wrapped vx c s.width, wrapped vy r s.height)

/-! ### What a step commits to PC (R95) and what sets an ERR bit (R33, R150) -/

/-- The table of R95: PC after the instruction. A skip commits PC + 4, every sum is modulo 65536. -/
def pcAfter (i : Instr) (s : State) : Word :=
  match i with
  | .ret => if h : s.sp.val = 0 then s.pc + 2 else s.stack[s.sp.val - 1]
  | .jpAddr nnn => nnn.setWidth 16
  | .callAddr nnn => if s.sp.val = 16 then s.pc + 2 else nnn.setWidth 16
  | .seVxByte x kk => if s.reg x = kk then s.pc + 4 else s.pc + 2
  | .sneVxByte x kk => if s.reg x ≠ kk then s.pc + 4 else s.pc + 2
  | .seVxVy x y => if s.reg x = s.reg y then s.pc + 4 else s.pc + 2
  | .sneVxVy x y => if s.reg x ≠ s.reg y then s.pc + 4 else s.pc + 2
  | .skpVx x => if s.keyDown (keyNumber (s.reg x)) = true then s.pc + 4 else s.pc + 2
  | .sknpVx x => if s.keyDown (keyNumber (s.reg x)) = false then s.pc + 4 else s.pc + 2
  | .jpV0Addr nnn => BitVec.ofNat 16 (nnn.toNat + (s.reg 0).toNat)
  | .ldVxK _ => if ∀ k, s.keyDown k = false then s.pc else s.pc + 2
  | .cls | .ldVxByte _ _ | .addVxByte _ _ | .ldVxVy _ _ | .orVxVy _ _ | .andVxVy _ _ | .xorVxVy _ _ | .addVxVy _ _
  | .subVxVy _ _ | .shrVx _ _ | .subnVxVy _ _ | .shlVx _ _ | .ldIAddr _ | .rndVxByte _ _ | .drwVxVyNibble _ _ _
  | .ldVxDT _ | .ldDTVx _ | .ldSTVx _ | .addIVx _ | .ldFVx _ | .ldBVx _ | .ldMemVx _ | .ldVxMem _ => s.pc + 2

/-- What raises a condition in a step from `s`: the column "when" of R150. -/
def causes (c : Condition) (s : State) : Prop :=
  match c with
  | .unknownInstruction => ∃ e, decode s.fetch = .error e
  | .stackOverflow => ∃ nnn, decode s.fetch = .ok (.callAddr nnn) ∧ s.sp.val = 16
  | .stackUnderflow => decode s.fetch = .ok .ret ∧ s.sp.val = 0

/-! ### What an instruction writes (R38) -/

/-- A piece of state beside the general registers and PC. -/
inductive Part where
  | index | stackPointer | stack | delay | sound | keys | resolution | screen | memory | errors | font | draws
  deriving DecidableEq, Repr

/-- Does a piece of state of `t` equal that of `s`? Memory is compared byte by byte at every address. -/
def Part.same (p : Part) (s t : State) : Prop :=
  match p with
  | .index => t.i = s.i
  | .stackPointer => t.sp = s.sp
  | .stack => t.stack = s.stack
  | .delay => t.dt = s.dt
  | .sound => t.st = s.st
  | .keys => t.key = s.key
  | .resolution => t.res = s.res
  | .screen => t.fb = s.fb
  | .memory => ∀ a : Nat, t.memRead a = s.memRead a
  | .errors => t.err = s.err
  | .font => t.font = s.font
  | .draws => t.draws = s.draws

/-- The pieces of state an instruction may write, the column "written by" of R38. CXKK counts its draw (log entry 2). -/
def writtenParts : Instr → List Part
  | .cls => [.screen]
  | .ret => [.stackPointer, .errors]
  | .callAddr _ => [.stackPointer, .stack, .errors]
  | .ldIAddr _ | .addIVx _ | .ldFVx _ => [.index]
  | .rndVxByte _ _ => [.draws]
  | .drwVxVyNibble _ _ _ => [.screen]
  | .ldDTVx _ => [.delay]
  | .ldSTVx _ => [.sound]
  | .ldBVx _ | .ldMemVx _ => [.memory]
  | .jpAddr _ | .seVxByte _ _ | .sneVxByte _ _ | .seVxVy _ _ | .ldVxByte _ _ | .addVxByte _ _ | .ldVxVy _ _
  | .orVxVy _ _ | .andVxVy _ _ | .xorVxVy _ _ | .addVxVy _ _ | .subVxVy _ _ | .shrVx _ _ | .subnVxVy _ _ | .shlVx _ _
  | .sneVxVy _ _ | .jpV0Addr _ | .skpVx _ | .sknpVx _ | .ldVxDT _ | .ldVxK _ | .ldVxMem _ => []

/-- May the instruction write `V[k]`? The rows V[X], V[0] to V[X] and "VF as flag" of R38. -/
def writesReg (i : Instr) (k : Reg) : Prop :=
  match i with
  | .ldVxByte x _ | .addVxByte x _ | .ldVxVy x _ | .orVxVy x _ | .andVxVy x _ | .xorVxVy x _ | .rndVxByte x _
  | .ldVxDT x | .ldVxK x => k = x
  | .addVxVy x _ | .subVxVy x _ | .shrVx x _ | .subnVxVy x _ | .shlVx x _ => k = x ∨ k = vf
  | .drwVxVyNibble _ _ _ => k = vf
  | .ldVxMem x => k ≤ x
  | .cls | .ret | .jpAddr _ | .callAddr _ | .seVxByte _ _ | .sneVxByte _ _ | .seVxVy _ _ | .sneVxVy _ _ | .ldIAddr _
  | .jpV0Addr _ | .skpVx _ | .sknpVx _ | .ldDTVx _ | .ldSTVx _ | .addIVx _ | .ldFVx _ | .ldBVx _ | .ldMemVx _ => False

/-- The frame of an instruction from `s` to `t`: every piece of state and every general register that the access matrix
does not give it is unchanged; PC may change. FONT and the count of draws, which the matrix does not name, are the model's
own fields (log entries 2 and 3). -/
def Framed (i : Instr) (s t : State) : Prop :=
  (∀ p : Part, p ∉ writtenParts i → p.same s t) ∧ ∀ k : Reg, ¬ writesReg i k → t.reg k = s.reg k

end Sys2Proof.Machine
end

