-- ==== Sys2Proof/Certificates/Slice0/Obligations.lean ====
section
/-! DEFINITION. The statements about the model, for the provers. Each docstring names the rule of spec/ it formalises. -/

open Sys2Proof Sys2Proof.Machine

/-! ### Encoding -/

/-- One written-out word of every format and some unknown words (R71, R76, R79). -/
def Obligations.WrittenWordsDecode : Prop :=
  decodeBytes 0x00 0xE0 = .ok .cls ∧ decodeBytes 0x00 0xEE = .ok .ret ∧
  decodeBytes 0x12 0x34 = .ok (.jpAddr 0x234) ∧ decodeBytes 0xBF 0xFF = .ok (.jpV0Addr 0xFFF) ∧
  decodeBytes 0x3A 0xFE = .ok (.seVxByte 0xA 0xFE) ∧ decodeBytes 0xC3 0x0F = .ok (.rndVxByte 3 0x0F) ∧
  decodeBytes 0x5A 0xB0 = .ok (.seVxVy 0xA 0xB) ∧ decodeBytes 0x8A 0xB6 = .ok (.shrVx 0xA 0xB) ∧
  decodeBytes 0xD1 0x25 = .ok (.drwVxVyNibble 1 2 5) ∧
  decodeBytes 0xE2 0x9E = .ok (.skpVx 2) ∧ decodeBytes 0xFF 0x65 = .ok (.ldVxMem 0xF) ∧
  decodeBytes 0x00 0x00 = .error (.unknownInstruction 0x0000) ∧
  decodeBytes 0x50 0x11 = .error (.unknownInstruction 0x5011) ∧
  decodeBytes 0x80 0x18 = .error (.unknownInstruction 0x8018)

/-- Every instruction, every operand: decoding its word gives it back (R70 to R76). -/
def Obligations.DecodeOfEncodeIsTheInstruction : Prop :=
  ∀ i : Instr, decode (encode i) = .ok i

/-- Every bit of a decoded word is in the instruction: encoding it again gives the word (R74, R76). That the instruction
keeps the Y of 8XY6 and 8XYE, which R80 says is ignored, is the model's choice (log entry 9). -/
def Obligations.EncodeOfDecodeIsTheWord : Prop :=
  ∀ (w : Word) (i : Instr), decode w = .ok i → encode i = w

/-- "a word `w` is this instruction exactly when `(w AND mask) = match`" (R76): the decoder's map by opcode and
discriminator (R75) selects exactly the row of the table. -/
def Obligations.DecoderFollowsTheOpcodeTable : Prop :=
  (opcodeTable.length = 34) ∧
  (∀ (w : Word) (i : Instr), decode w = .ok i → ∃ r ∈ opcodeTable, r.mnemonic = i.mnemonic ∧ r.accepts w = true) ∧
  ∀ (w : Word), ∀ r ∈ opcodeTable, r.accepts w = true → ∃ i, decode w = .ok i ∧ i.mnemonic = r.mnemonic

/-- "No two patterns overlap, so at most one instruction matches" (R74). -/
def Obligations.OpcodeRowsNeverOverlap : Prop :=
  ∀ r ∈ opcodeTable, ∀ q ∈ opcodeTable, ∀ w : Word, r.accepts w = true → q.accepts w = true → r = q

/-! ### The step cycle -/

/-- The instruction word is the byte at PC, then the byte at PC + 1, each address modulo 4096 (R91). -/
def Obligations.FetchReadsTwoBytesBigEndian : Prop :=
  ∀ s : State, s.fetch.toNat =
    256 * (s.memRead (s.pc.toNat % 4096)).toNat + (s.memRead ((s.pc.toNat + 1) % 4096)).toNat

/-- A step whose two bytes decode to an instruction is that instruction's meaning, and nothing around it (R93, R94, R99). -/
def Obligations.StepRunsTheDecodedInstruction : Prop :=
  ∀ (s : State) (i : Instr), decodeBytes (s.memRead s.pc.toNat) (s.memRead (s.pc.toNat + 1)) = .ok i → step s = exec i s

/-- An unknown word sets ERR.UNK, advances PC by 2, and nothing else changes (R78, R151). -/
def Obligations.UnknownWordSetsUnkAndAdvances : Prop :=
  ∀ (s : State) (e : DecodeError), decodeBytes (s.memRead s.pc.toNat) (s.memRead (s.pc.toNat + 1)) = .error e →
    ∃ t, step s = .next t ∧ t.raised .unknownInstruction = true ∧ t.raised .stackOverflow = s.raised .stackOverflow ∧
      t.raised .stackUnderflow = s.raised .stackUnderflow ∧ t.pc = s.pc + 2 ∧ t = { s with err := t.err, pc := t.pc }

/-- "STEP always completes and always returns to the host" (R98): every instruction completes in every state, and so do
both forms of STEP. -/
def Obligations.EveryStepCompletes : Prop :=
  (∀ (i : Instr) (s : State), ∃ t, exec i s = .next t) ∧ (∀ s : State, ∃ t, step s = .next t) ∧
  ∀ (rnd : Byte) (s : State), ∃ t, stepWith rnd s = .next t

/-- The table of R95: the value every instruction, and an unknown word, commits to PC. -/
def Obligations.PcAfterEveryInstruction : Prop :=
  (∀ (i : Instr) (s t : State), exec i s = .next t → t.pc = pcAfter i s) ∧
  ∀ (s t : State) (e : DecodeError), decode s.fetch = .error e → step s = .next t → t.pc = s.pc + 2

/-- "`rnd` influences the result only when the fetched word is a CXKK" (R97). -/
def Obligations.OnlyRndLooksAtTheRandomByte : Prop :=
  ∀ (r q : Byte) (s : State), (∀ x kk, decode s.fetch ≠ .ok (.rndVxByte x kk)) → stepWith r s = stepWith q s

/-- The host interface's step is STEP(rnd) with the free byte of the state's draw (the model's choice, log entry 2). -/
def Obligations.FreeStepIsStepWithADrawnByte : Prop :=
  ∀ s : State, step s = stepWith (Config.rnd s.draws) s

/-- STEP changes DT only by FX15, ST only by FX18, and KEY never (R96). -/
def Obligations.StepLeavesTimersAndKeysAlone : Prop :=
  ∀ s t : State, step s = .next t →
    t.key = s.key ∧ ((∀ x, decode s.fetch ≠ .ok (.ldDTVx x)) → t.dt = s.dt) ∧
    ((∀ x, decode s.fetch ≠ .ok (.ldSTVx x)) → t.st = s.st)

/-- The access matrix (R38, what is written): whatever it does not give an instruction, the instruction leaves as it
was; memory is compared byte by byte at every address. FONT and the count of draws are the model's own fields (log
entries 2 and 3). -/
def Obligations.AccessMatrixIsTheFrame : Prop :=
  ∀ (i : Instr) (s t : State), exec i s = .next t → Framed i s t

/-- An ERR bit is set after a step exactly when it was set before or the step raised its condition (R33, R150). -/
def Obligations.ErrBitsAreStickyWithOneCauseEach : Prop :=
  ∀ (s t : State) (c : Condition), step s = .next t → (t.raised c = true ↔ s.raised c = true ∨ causes c s)

/-- "ERR never changes what a later instruction does" (R33): two states that differ in ERR only step to states that
differ in ERR only. -/
def Obligations.ErrIsNeverRead : Prop :=
  ∀ (s t : State) (e : BitVec 3), step s = .next t →
    ∃ u, step { s with err := e } = .next u ∧ { u with err := t.err } = t

/-- "ERR = 0" on the end state of a run means that no step of it raised a condition (R155). -/
def Obligations.ErrZeroAtTheEndMeansASafeRun : Prop :=
  ∀ (n : Nat) (s t : State), Sys2Proof.core.run n s = .next t → t.noError → safeRun n s

/-! ### Invariants -/

/-- The state after reset (its resolution, image and font, and the canonical form of MEM, are the model's choices,
log entries 3, 4 and 5) meets the invariant of R39. -/
def Obligations.ResetStateMeetsTheInvariant : Prop := State.reset.Inv

/-- Every step keeps the invariant of R39: MEM in its canonical form (the model's choice, log entry 5) and below 4096, FB of
exactly W × H cells, W and H at least 1. -/
def Obligations.StepKeepsTheInvariant : Prop :=
  ∀ s t : State, s.Inv → step s = .next t → t.Inv

/-- Every sequence of host operations keeps it, from any session that has it, the un-reset one included (R39, R170). That
MEM is in a canonical form, and that a state carries its session's font, are the model's choices (log entries 5 and 3). -/
def Obligations.HostOperationsKeepTheInvariant : Prop :=
  ∀ (c : Session) (ops : List HostOp), c.Inv → (c.run ops).Inv

/-- Without a RESET, every operation keeps RES and takes no ERR bit away (R32, R33, R39). That it keeps FONT too rests on
the model's choice to hold the font in the state, where no operation changes it (log entry 3). -/
def Obligations.SessionConstantsStayAndErrOnlyGrows : Prop :=
  ∀ (c : Session) (ops : List HostOp) (s : State), (∀ op ∈ ops, ∀ res image, op ≠ .reset res image) →
    c.state = some s → ∃ t, (c.run ops).state = some t ∧ t.res = s.res ∧ t.font = s.font ∧
      ∀ e : Condition, s.raised e = true → t.raised e = true

/-! ### Memory -/

/-- A read after a write gives the byte written where the effective addresses agree, and the old byte elsewhere (R12,
R52, R56). -/
def Obligations.ReadAfterWrite : Prop :=
  ∀ (s : State) (a b : Nat) (v : Byte),
    (s.memWrite a v).memRead b = if b % 4096 = a % 4096 then v else s.memRead b

/-- The canonical form is canonical (the model's choice, log entry 5): two memories in it that read the same at every
address are the same list. -/
def Obligations.EqualReadsMeanEqualMemories : Prop :=
  ∀ (font : Font) (m k : Memory), Memory.wf font m → Memory.wf font k →
    (∀ a, Memory.read font m a = Memory.read font k a) → m = k

/-- A store is seen by the very next fetch (R63): after an FX55 that stored V[k] and V[k + 1] where PC then points, the
next word is those two bytes. -/
def Obligations.NextFetchSeesTheStore : Prop :=
  ∀ (x : Reg) (s t : State) (k : Nat), exec (.ldMemVx x) s = .next t → k + 1 ≤ x.toNat →
    effectiveAddress t.pc.toNat = effectiveAddress (indexed s.i k) →
    t.fetch = wordOfBytes (s.reg (BitVec.ofNat 4 k)) (s.reg (BitVec.ofNat 4 (k + 1)))

/-! ### Control flow -/

/-- 00EE (R101). -/
def Obligations.ReturnPopsOrUnderflows : Prop :=
  ∀ s : State, ∃ t, exec .ret s = .next t ∧
    (s.sp.val = 0 → t.sp = s.sp ∧ t.pc = s.pc + 2 ∧ t.err = s.err ||| 0b100) ∧
    (∀ n, ∀ h : n < 16, s.sp.val = n + 1 → t.sp.val = n ∧ t.pc = s.stack[n] ∧ t.err = s.err) ∧
    t.stack = s.stack ∧ Framed .ret s t

/-- 2NNN (R102). -/
def Obligations.CallPushesOrOverflows : Prop :=
  ∀ (nnn : Addr) (s : State), ∃ t, exec (.callAddr nnn) s = .next t ∧
    (s.sp.val = 16 → t.sp = s.sp ∧ t.stack = s.stack ∧ t.pc = s.pc + 2 ∧ t.err = s.err ||| 0b010) ∧
    (∀ h : s.sp.val < 16, t.stack[s.sp.val] = s.pc + 2 ∧ (∀ k, ∀ hk : k < 16, k ≠ s.sp.val → t.stack[k] = s.stack[k]) ∧
      t.sp.val = s.sp.val + 1 ∧ t.pc.toNat = nnn.toNat ∧ t.err = s.err) ∧
    Framed (.callAddr nnn) s t

/-- "`2NNN` then `00EE` restores the program counter to the instruction immediately after the original call, for stack
depths 1 through 16" (R101). -/
def Obligations.CallThenReturnComesBack : Prop :=
  ∀ (nnn : Addr) (s t : State), s.sp.val < 16 → exec (.callAddr nnn) s = .next t →
    ∃ u, exec .ret t = .next u ∧ u.pc = s.pc + 2 ∧ u.sp = s.sp ∧ u.err = s.err

/-- 1NNN and BNNN (R108, R109): always V0, the sum not reduced to 12 bits. -/
def Obligations.JumpsSetThePc : Prop :=
  ∀ (nnn : Addr) (s : State),
    (∃ t, exec (.jpAddr nnn) s = .next t ∧ t.pc.toNat = nnn.toNat ∧ Framed (.jpAddr nnn) s t) ∧
    ∃ t, exec (.jpV0Addr nnn) s = .next t ∧ t.pc.toNat = nnn.toNat + (s.reg 0).toNat ∧ Framed (.jpV0Addr nnn) s t

/-- A jump to itself leaves the state as it was (R109, R181). -/
def Obligations.SelfJumpChangesNothing : Prop :=
  ∀ (nnn : Addr) (s : State), decode s.fetch = .ok (.jpAddr nnn) → s.pc.toNat = nnn.toNat → step s = .next s

/-- 3XKK, 4XKK, 5XY0 and 9XY0 (R100, R103 to R106). -/
def Obligations.SkipsCompareRegisters : Prop :=
  ∀ (x y : Reg) (kk : Byte) (s : State),
    (∃ t, exec (.seVxByte x kk) s = .next t ∧ t.pc = (if s.reg x = kk then s.pc + 4 else s.pc + 2) ∧
      Framed (.seVxByte x kk) s t) ∧
    (∃ t, exec (.sneVxByte x kk) s = .next t ∧ t.pc = (if s.reg x = kk then s.pc + 2 else s.pc + 4) ∧
      Framed (.sneVxByte x kk) s t) ∧
    (∃ t, exec (.seVxVy x y) s = .next t ∧ t.pc = (if s.reg x = s.reg y then s.pc + 4 else s.pc + 2) ∧
      Framed (.seVxVy x y) s t) ∧
    ∃ t, exec (.sneVxVy x y) s = .next t ∧ t.pc = (if s.reg x = s.reg y then s.pc + 2 else s.pc + 4) ∧
      Framed (.sneVxVy x y) s t

/-! ### Loads and ALU -/

/-- 6XKK, 8XY0 and FX07 (R111, R113, R143). -/
def Obligations.LoadsCopyAByte : Prop :=
  ∀ (x y : Reg) (kk : Byte) (s : State),
    (∃ t, exec (.ldVxByte x kk) s = .next t ∧ t.reg x = kk ∧ t.pc = s.pc + 2 ∧ Framed (.ldVxByte x kk) s t) ∧
    (∃ t, exec (.ldVxVy x y) s = .next t ∧ t.reg x = s.reg y ∧ t.pc = s.pc + 2 ∧ Framed (.ldVxVy x y) s t) ∧
    ∃ t, exec (.ldVxDT x) s = .next t ∧ t.reg x = s.dt ∧ t.pc = s.pc + 2 ∧ Framed (.ldVxDT x) s t

/-- 7XKK: the sum modulo 256, no flag (R112). -/
def Obligations.AddLiteralWrapsWithoutFlag : Prop :=
  ∀ (x : Reg) (kk : Byte) (s : State), ∃ t, exec (.addVxByte x kk) s = .next t ∧
    (t.reg x).toNat = ((s.reg x).toNat + kk.toNat) % 256 ∧ t.pc = s.pc + 2 ∧ Framed (.addVxByte x kk) s t

/-- 8XY1, 8XY2 and 8XY3, bit by bit; VF is not reset (R114, R115, R121). -/
def Obligations.BitwiseOperationsAreBitwise : Prop :=
  ∀ (x y : Reg) (s : State),
    (∃ t, exec (.orVxVy x y) s = .next t ∧ t.pc = s.pc + 2 ∧ Framed (.orVxVy x y) s t ∧
      ∀ b < 8, (t.reg x).getLsbD b = ((s.reg x).getLsbD b || (s.reg y).getLsbD b)) ∧
    (∃ t, exec (.andVxVy x y) s = .next t ∧ t.pc = s.pc + 2 ∧ Framed (.andVxVy x y) s t ∧
      ∀ b < 8, (t.reg x).getLsbD b = ((s.reg x).getLsbD b && (s.reg y).getLsbD b)) ∧
    ∃ t, exec (.xorVxVy x y) s = .next t ∧ t.pc = s.pc + 2 ∧ Framed (.xorVxVy x y) s t ∧
      ∀ b < 8, (t.reg x).getLsbD b = ((s.reg x).getLsbD b ^^ (s.reg y).getLsbD b)

/-- 8XY4: the sum modulo 256 and the carry; with X = F the carry stands (R116, R122). -/
def Obligations.AddSetsTheCarry : Prop :=
  ∀ (x y : Reg) (s : State), ∃ t, exec (.addVxVy x y) s = .next t ∧
    (x ≠ vf → (t.reg x).toNat = ((s.reg x).toNat + (s.reg y).toNat) % 256) ∧
    (t.reg vf).toNat = (if (s.reg x).toNat + (s.reg y).toNat > 255 then 1 else 0) ∧
    t.pc = s.pc + 2 ∧ Framed (.addVxVy x y) s t

/-- 8XY5 and 8XY7: the difference modulo 256 and the strict comparison; with X = F the difference stands (R117, R119,
R122). -/
def Obligations.SubtractionsSetTheStrictComparison : Prop :=
  ∀ (x y : Reg) (s : State),
    (∃ t, exec (.subVxVy x y) s = .next t ∧
      (t.reg x).toNat = (if (s.reg y).toNat ≤ (s.reg x).toNat then (s.reg x).toNat - (s.reg y).toNat
        else (s.reg x).toNat + 256 - (s.reg y).toNat) ∧
      (x ≠ vf → (t.reg vf).toNat = if (s.reg x).toNat > (s.reg y).toNat then 1 else 0) ∧
      t.pc = s.pc + 2 ∧ Framed (.subVxVy x y) s t) ∧
    ∃ t, exec (.subnVxVy x y) s = .next t ∧
      (t.reg x).toNat = (if (s.reg x).toNat ≤ (s.reg y).toNat then (s.reg y).toNat - (s.reg x).toNat
        else (s.reg y).toNat + 256 - (s.reg x).toNat) ∧
      (x ≠ vf → (t.reg vf).toNat = if (s.reg y).toNat > (s.reg x).toNat then 1 else 0) ∧
      t.pc = s.pc + 2 ∧ Framed (.subnVxVy x y) s t

/-- 8XY6 and 8XYE: shift by one, the bit shifted out to VF; with X = F the result stands; Y plays no part (R118, R120,
R122). -/
def Obligations.ShiftsIgnoreTheSecondRegister : Prop :=
  ∀ (x y : Reg) (s : State),
    (∃ t, exec (.shrVx x y) s = .next t ∧ (t.reg x).toNat = (s.reg x).toNat / 2 ∧
      (x ≠ vf → (t.reg vf).toNat = (s.reg x).toNat % 2) ∧ t.pc = s.pc + 2 ∧ Framed (.shrVx x y) s t) ∧
    ∃ t, exec (.shlVx x y) s = .next t ∧ (t.reg x).toNat = (s.reg x).toNat * 2 % 256 ∧
      (x ≠ vf → (t.reg vf).toNat = (s.reg x).toNat / 128) ∧ t.pc = s.pc + 2 ∧ Framed (.shlVx x y) s t

/-! ### Index register and memory -/

/-- ANNN, FX1E and FX29 (R125, R126, R127). -/
def Obligations.IndexInstructionsSetI : Prop :=
  ∀ (nnn : Addr) (x : Reg) (s : State),
    (∃ t, exec (.ldIAddr nnn) s = .next t ∧ t.i.toNat = nnn.toNat ∧ t.pc = s.pc + 2 ∧ Framed (.ldIAddr nnn) s t) ∧
    (∃ t, exec (.addIVx x) s = .next t ∧ t.i.toNat = (s.i.toNat + (s.reg x).toNat) % 65536 ∧ t.pc = s.pc + 2 ∧
      Framed (.addIVx x) s t) ∧
    ∃ t, exec (.ldFVx x) s = .next t ∧ t.i.toNat = 5 * (s.reg x).toNat ∧ t.pc = s.pc + 2 ∧ Framed (.ldFVx x) s t

/-- FX33: the three decimal digits at I, I + 1 and I + 2, every other byte as before (R128); and the digit law (R129). -/
def Obligations.BcdStoresTheDecimalDigits : Prop :=
  ∀ (x : Reg) (s : State), ∃ t, exec (.ldBVx x) s = .next t ∧
    (t.memRead (indexed s.i 0)).toNat = (s.reg x).toNat / 100 ∧
    (t.memRead (indexed s.i 1)).toNat = (s.reg x).toNat / 10 % 10 ∧
    (t.memRead (indexed s.i 2)).toNat = (s.reg x).toNat % 10 ∧
    100 * (t.memRead (indexed s.i 0)).toNat + 10 * (t.memRead (indexed s.i 1)).toNat
      + (t.memRead (indexed s.i 2)).toNat = (s.reg x).toNat ∧
    (t.memRead (indexed s.i 0)).toNat ≤ 2 ∧ (t.memRead (indexed s.i 1)).toNat ≤ 9 ∧
    (t.memRead (indexed s.i 2)).toNat ≤ 9 ∧
    (∀ a, (∀ k < 3, effectiveAddress a ≠ effectiveAddress (indexed s.i k)) → t.memRead a = s.memRead a) ∧
    t.pc = s.pc + 2 ∧ Framed (.ldBVx x) s t

/-- FX55: V[k] at I + k for k = 0 to X, every other byte as before (R130). -/
def Obligations.StoreRegistersFromIUp : Prop :=
  ∀ (x : Reg) (s : State), ∃ t, exec (.ldMemVx x) s = .next t ∧
    (∀ k : Reg, k ≤ x → t.memRead (indexed s.i k.toNat) = s.reg k) ∧
    (∀ a, (∀ k : Reg, k ≤ x → effectiveAddress a ≠ effectiveAddress (indexed s.i k.toNat)) →
      t.memRead a = s.memRead a) ∧
    t.pc = s.pc + 2 ∧ Framed (.ldMemVx x) s t

/-- FX65: V[k] from I + k for k = 0 to X (R131). -/
def Obligations.LoadRegistersFromIUp : Prop :=
  ∀ (x : Reg) (s : State), ∃ t, exec (.ldVxMem x) s = .next t ∧
    (∀ k : Reg, k ≤ x → t.reg k = s.memRead (indexed s.i k.toNat)) ∧ t.pc = s.pc + 2 ∧ Framed (.ldVxMem x) s t

/-- What FX55 stored, FX65 with the same X brings back, whatever the registers hold in between (R130, R131). -/
def Obligations.StoreThenLoadBringsTheRegistersBack : Prop :=
  ∀ (x : Reg) (s t u : State), exec (.ldMemVx x) s = .next t → u.mem = t.mem → u.font = t.font → u.i = t.i →
    ∃ r, exec (.ldVxMem x) u = .next r ∧ ∀ k : Reg, k ≤ x → r.reg k = s.reg k

/-! ### Display -/

/-- 00E0 (R135). -/
def Obligations.ClearScreenClearsEveryCell : Prop :=
  ∀ s : State, ∃ t, exec .cls s = .next t ∧ (∀ x y, t.pixel x y = false) ∧ t.fb.sized s.width s.height ∧
    t.pc = s.pc + 2 ∧ Framed .cls s t

/-- DXYN on any screen (R136, R137): a cell flips exactly when an odd number of the sprite's 1 bits land on it; VF is 1
exactly when a 1 bit lands on a set cell, or, on a screen too small for the sprite, two land on one cell. -/
def Obligations.DrawFlipsTheLitCells : Prop :=
  ∀ (x y : Reg) (n : Nibble) (s : State), s.Inv → ∃ t, exec (.drwVxVyNibble x y n) s = .next t ∧
    (∀ px py, t.pixel px py =
      (s.pixel px py ^^ decide ((s.litCells (s.reg x) (s.reg y) n.toNat).count (px, py) % 2 = 1))) ∧
    ((t.reg vf = 1 ∨ t.reg vf = 0) ∧ (t.reg vf = 1 ↔ ∃ d ∈ s.litCells (s.reg x) (s.reg y) n.toNat,
      s.pixel d.1 d.2 = true ∨ 2 ≤ (s.litCells (s.reg x) (s.reg y) n.toNat).count d)) ∧
    t.fb.sized s.width s.height ∧ t.pc = s.pc + 2 ∧ Framed (.drwVxVyNibble x y n) s t

/-- R138 (a): after 00E0, a DXYN leaves the sprite's bit pattern exactly, and VF = 0. -/
def Obligations.DrawOnAClearScreenShowsTheSprite : Prop :=
  ∀ (x y : Reg) (n : Nibble) (s t u : State), s.Inv → 8 ≤ s.width → n.toNat ≤ s.height →
    exec .cls s = .next t → exec (.drwVxVyNibble x y n) t = .next u →
    u.reg vf = 0 ∧
    (∀ r < n.toNat, ∀ c < 8, u.pixel (wrapped (s.reg x) c s.width) (wrapped (s.reg y) r s.height)
      = spriteBit (s.memRead (indexed s.i r)) c) ∧
    ∀ px py, (∀ r < n.toNat, ∀ c < 8,
      (px, py) ≠ (wrapped (s.reg x) c s.width, wrapped (s.reg y) r s.height)) → u.pixel px py = false

/-- R138 (b): two identical draws, neither register being VF, restore the framebuffer; the second reports a collision
exactly when some 1 bit lands on a cell that was 0 before the first. -/
def Obligations.DrawTwiceRestoresTheScreen : Prop :=
  ∀ (x y : Reg) (n : Nibble) (s t u : State), s.Inv → 8 ≤ s.width → n.toNat ≤ s.height → x ≠ vf → y ≠ vf →
    exec (.drwVxVyNibble x y n) s = .next t → exec (.drwVxVyNibble x y n) t = .next u →
    (∀ px py, u.pixel px py = s.pixel px py) ∧
    (u.reg vf = 1 ↔ ∃ d ∈ s.litCells (s.reg x) (s.reg y) n.toNat, s.pixel d.1 d.2 = false)

/-- R138 (c) and (d): VF = 1 exactly when a cell was 1 before and the bit landing on it is 1; as many cells change as the
sprite has 1 bits. -/
def Obligations.DrawChangesAsManyCellsAsBits : Prop :=
  ∀ (x y : Reg) (n : Nibble) (s t : State), s.Inv → 8 ≤ s.width → n.toNat ≤ s.height →
    exec (.drwVxVyNibble x y n) s = .next t →
    (t.reg vf = 1 ↔ ∃ d ∈ s.litCells (s.reg x) (s.reg y) n.toNat, s.pixel d.1 d.2 = true) ∧
    ((List.range s.height).flatMap fun py => (List.range s.width).filter fun px => t.pixel px py != s.pixel px py).length
      = ((List.range n.toNat).map fun r =>
          (List.range 8).countP fun b => (s.memRead (indexed s.i r)).getLsbD b).sum

/-- The display sink sees W × H cells, and the position of FB[x, y] is y × W + x (R30, R168). -/
def Obligations.DisplayIsRowByRow : Prop :=
  ∀ s : State, s.Inv → s.display.length = s.width * s.height ∧
    ∀ x < s.width, ∀ y < s.height, s.display[y * s.width + x]? = some (s.pixel x y)

/-! ### Random, keys, timers -/

/-- CXKK in STEP(rnd) (R140): the byte given to the step AND KK; no bit outside KK is set. -/
def Obligations.RandomByteIsMasked : Prop :=
  ∀ (rnd : Byte) (x : Reg) (kk : Byte) (s : State), decode s.fetch = .ok (.rndVxByte x kk) →
    ∃ t, stepWith rnd s = .next t ∧ t.reg x = rnd &&& kk ∧ t.reg x &&& ~~~kk = 0 ∧ t.pc = s.pc + 2 ∧
      Framed (.rndVxByte x kk) s t

/-- CXKK under the host interface's step: the same with the free byte of the state's draw, whatever that byte is (the
model's choice, log entry 2), and the next CXKK draws anew. -/
def Obligations.FreeRandomByteIsMasked : Prop :=
  ∀ (x : Reg) (kk : Byte) (s : State), ∃ t, exec (.rndVxByte x kk) s = .next t ∧ t.reg x = Config.rnd s.draws &&& kk ∧
    t.reg x &&& ~~~kk = 0 ∧ t.draws = s.draws + 1 ∧ t.pc = s.pc + 2 ∧ Framed (.rndVxByte x kk) s t

/-- EX9E and EXA1: the key numbered by V[X] mod 16; exactly one of the two skips (R141, R142, R147). -/
def Obligations.KeySkipsTestTheLevel : Prop :=
  ∀ (x : Reg) (s : State) (k : Fin 16), k.val = (s.reg x).toNat % 16 →
    (∃ t, exec (.skpVx x) s = .next t ∧ t.pc = (if s.key[k] = true then s.pc + 4 else s.pc + 2) ∧
      Framed (.skpVx x) s t) ∧
    ∃ t, exec (.sknpVx x) s = .next t ∧ t.pc = (if s.key[k] = true then s.pc + 2 else s.pc + 4) ∧
      Framed (.sknpVx x) s t

/-- FX0A: with no key pressed no state changes; else the least pressed key goes to V[X] (R144). -/
def Obligations.KeyWaitTakesTheLeastPressedKey : Prop :=
  ∀ (x : Reg) (s : State),
    ((∀ k : Fin 16, s.key[k] = false) → exec (.ldVxK x) s = .next s) ∧
    ∀ k : Fin 16, s.key[k] = true → (∀ j : Fin 16, j < k → s.key[j] = false) →
      ∃ t, exec (.ldVxK x) s = .next t ∧ (t.reg x).toNat = k.val ∧ t.pc = s.pc + 2 ∧ Framed (.ldVxK x) s t

/-- FX15 and FX18 (R145, R146), and SOUND after FX18 (R166). -/
def Obligations.TimerInstructionsSetTheTimers : Prop :=
  ∀ (x : Reg) (s : State),
    (∃ t, exec (.ldDTVx x) s = .next t ∧ t.dt = s.reg x ∧ t.pc = s.pc + 2 ∧ Framed (.ldDTVx x) s t) ∧
    ∃ t, exec (.ldSTVx x) s = .next t ∧ t.st = s.reg x ∧ (t.sound = true ↔ s.reg x ≠ 0) ∧ t.pc = s.pc + 2 ∧
      Framed (.ldSTVx x) s t

/-! ### The host's operations -/

/-- TICK (R163): each nonzero timer goes down by one, nothing else changes; and n TICKs take a timer down by n, floored at
zero (R164). -/
def Obligations.TicksCountDownToZero : Prop :=
  (∀ (c : Session) (s : State), c.state = some s → perform .tick c = .next { c with state := some s.tick }) ∧
  (∀ s : State, s.tick = { s with dt := s.tick.dt, st := s.tick.st }) ∧
  ∀ (n : Nat) (s : State), (State.tick^[n] s).dt.toNat = s.dt.toNat - n ∧ (State.tick^[n] s).st.toNat = s.st.toNat - n

/-- SET_KEY (R167): the one flag, and nothing at all for an index of 16 or more. -/
def Obligations.SetKeyChangesOneFlag : Prop :=
  ∀ (c : Session) (s : State) (index : Nat) (pressed : Bool), c.state = some s →
    ∃ t, perform (.setKey index pressed) c = .next { c with state := some t } ∧ t = { s with key := t.key } ∧
      ∀ k : Fin 16, t.key[k] = if k.val = index then pressed else s.key[k]

/-- The table of R36: every piece of state after a successful RESET, for every font, resolution and image. -/
def Obligations.ResetGivesTheResetTable : Prop :=
  ∀ (c : Session) (res : Word) (image : List Byte), resSupported res = true → image.length ≤ 3584 →
    ∃ t, perform (.reset res image) c = .next { c with state := some t } ∧
      (∀ k : Reg, t.reg k = 0) ∧ t.pc = 0x0200 ∧ t.i = 0 ∧ t.sp.val = 0 ∧ (∀ k : Fin 16, t.stack[k] = 0) ∧
      t.dt = 0 ∧ t.st = 0 ∧ t.sound = false ∧ (∀ k : Fin 16, t.key[k] = false) ∧ t.res = res ∧
      (∀ x y, t.pixel x y = false) ∧ t.fb.sized (resWidth res) (resHeight res) ∧
      (∀ a, ∀ h : a < 80, t.memRead a = c.font[a]) ∧ (∀ a, 80 ≤ a → a < 0x200 → t.memRead a = 0) ∧
      (∀ k, ∀ h : k < image.length, t.memRead (0x200 + k) = image[k]) ∧
      (∀ k, image.length ≤ k → k < 3584 → t.memRead (0x200 + k) = 0) ∧ t.err = 0

/-- RESET succeeds exactly when the image has at most 3584 bytes; a longer one is a LoadError and changes no state (R154,
R176). -/
def Obligations.ResetChecksTheImageSize : Prop :=
  ∀ (c : Session) (res : Word) (image : List Byte), resSupported res = true →
    ((∃ d, perform (.reset res image) c = .next d) ↔ image.length ≤ 3584) ∧
    (3584 < image.length → perform (.reset res image) c = .fault .loadError ∧ c.after (.reset res image) = c)

/-- Before the first successful RESET no operation but RESET is admitted (R177). -/
def Obligations.NothingButResetBeforeReset : Prop :=
  ∀ (c : Session) (op : HostOp), c.state = none → (∀ res image, op ≠ .reset res image) →
    perform op c = .refused .notReset ∧ c.after op = c

/-! ### The end of a run -/

/-- From the end of a run (R181, by the model's choice of log entry 11) on: any number of STEPs, with any random bytes,
leave every piece of state unchanged, and any sequence of STEP, TICK and SET_KEY operations changes nothing but DT, ST and
KEY and leaves the run ended. -/
def Obligations.EndedRunStaysEnded : Prop :=
  (∀ (s : State) (n : Nat), s.ended = true → Sys2Proof.core.run n s = .next s ∧ ∀ rnd, stepWith rnd s = .next s) ∧
  ∀ (c : Session) (ops : List HostOp) (s : State), (∀ op ∈ ops, ∀ res image, op ≠ .reset res image) →
    c.state = some s → s.ended = true → ∃ t, (c.run ops).state = some t ∧ t.ended = true ∧
      t = { s with dt := t.dt, st := t.st, key := t.key }

/-- A run ends in one state (R181, by the model's choice of log entry 11): however many steps the host has made when it
finds the run ended, the state is the same. -/
def Obligations.RunEndsInOneState : Prop :=
  ∀ (n m : Nat) (s t u : State), runEnds n s t → runEnds m s u → t = u
end

