-- ==== Sys2Proof/Laws/Decode.lean ====
section
/-! SUPPORT. The fields of an encoded word (spec/30_encoding.md R71, R72), both ways: cutting the fields from a built word,
and building a word from its fields. -/

namespace Sys2Proof

/-! ### Fields of a built word -/

@[simp] theorem fieldP_formatA (p : Nibble) (nnn : Addr) : fieldP (formatA p nnn) = p :=
  BitVec.extractLsb'_append_eq_left

@[simp] theorem fieldNNN_formatA (p : Nibble) (nnn : Addr) : fieldNNN (formatA p nnn) = nnn :=
  BitVec.extractLsb'_append_eq_right

@[simp] theorem fieldP_formatK (p : Nibble) (x : Reg) (kk : Byte) : fieldP (formatK p x kk) = p :=
  BitVec.extractLsb'_append_eq_left (b := x ++ kk)

@[simp] theorem fieldX_formatK (p : Nibble) (x : Reg) (kk : Byte) : fieldX (formatK p x kk) = x :=
  (BitVec.extractLsb'_append_eq_of_add_le (xlo := x ++ kk) (by decide)).trans BitVec.extractLsb'_append_eq_left

@[simp] theorem fieldKK_formatK (p : Nibble) (x : Reg) (kk : Byte) : fieldKK (formatK p x kk) = kk :=
  (BitVec.extractLsb'_append_eq_of_add_le (xlo := x ++ kk) (by decide)).trans BitVec.extractLsb'_append_eq_right

@[simp] theorem fieldP_formatR (p : Nibble) (x y : Reg) (f : Nibble) : fieldP (formatR p x y f) = p :=
  BitVec.extractLsb'_append_eq_left (b := x ++ (y ++ f))

@[simp] theorem fieldX_formatR (p : Nibble) (x y : Reg) (f : Nibble) : fieldX (formatR p x y f) = x :=
  (BitVec.extractLsb'_append_eq_of_add_le (xlo := x ++ (y ++ f)) (by decide)).trans
    (BitVec.extractLsb'_append_eq_left (b := y ++ f))

@[simp] theorem fieldY_formatR (p : Nibble) (x y : Reg) (f : Nibble) : fieldY (formatR p x y f) = y :=
  (BitVec.extractLsb'_append_eq_of_add_le (xlo := x ++ (y ++ f)) (by decide)).trans
    ((BitVec.extractLsb'_append_eq_of_add_le (xlo := y ++ f) (by decide)).trans BitVec.extractLsb'_append_eq_left)

@[simp] theorem fieldN_formatR (p : Nibble) (x y : Reg) (f : Nibble) : fieldN (formatR p x y f) = f :=
  (BitVec.extractLsb'_append_eq_of_add_le (xlo := x ++ (y ++ f)) (by decide)).trans
    ((BitVec.extractLsb'_append_eq_of_add_le (xlo := y ++ f) (by decide)).trans BitVec.extractLsb'_append_eq_right)

/-! ### A word is built from its fields -/

theorem formatA_fields (w : Word) : formatA (fieldP w) (fieldNNN w) = w :=
  (BitVec.extractLsb'_append_extractLsb'_eq_extractLsb' rfl).trans BitVec.extractLsb'_eq_self

theorem formatK_fields (w : Word) : formatK (fieldP w) (fieldX w) (fieldKK w) = w := by
  have h : fieldX w ++ fieldKK w = fieldNNN w := BitVec.extractLsb'_append_extractLsb'_eq_extractLsb' rfl
  unfold formatK
  exact (congrArg (fun a : Addr => formatA (fieldP w) a) h).trans (formatA_fields w)

theorem formatR_fields (w : Word) : formatR (fieldP w) (fieldX w) (fieldY w) (fieldN w) = w := by
  have h : fieldY w ++ fieldN w = fieldKK w := BitVec.extractLsb'_append_extractLsb'_eq_extractLsb' rfl
  unfold formatR
  exact (congrArg (fun a : Byte => formatK (fieldP w) (fieldX w) a) h).trans (formatK_fields w)

/-- A word's two bytes, put together again, are the word (R53). -/
@[simp] theorem wordOfBytes_high_low (w : Word) : wordOfBytes (highByte w) (lowByte w) = w :=
  (BitVec.extractLsb'_append_extractLsb'_eq_extractLsb' rfl).trans BitVec.extractLsb'_eq_self

/-! ### Masks of R76 -/

theorem formatA_and (p q : Nibble) (a b : Addr) : formatA p a &&& formatA q b = formatA (p &&& q) (a &&& b) :=
  BitVec.and_append

theorem formatK_and (p q : Nibble) (x u : Reg) (a b : Byte) :
    formatK p x a &&& formatK q u b = formatK (p &&& q) (x &&& u) (a &&& b) := by
  refine (BitVec.and_append (x₁ := p) (x₂ := q) (y₁ := x ++ a) (y₂ := u ++ b)).trans ?_
  rw [BitVec.and_append]
  rfl

theorem formatR_and (p q : Nibble) (x u y v : Reg) (a b : Nibble) :
    formatR p x y a &&& formatR q u v b = formatR (p &&& q) (x &&& u) (y &&& v) (a &&& b) := by
  refine (BitVec.and_append (x₁ := p) (x₂ := q) (y₁ := x ++ (y ++ a)) (y₂ := u ++ (v ++ b))).trans ?_
  rw [BitVec.and_append, BitVec.and_append]
  rfl

theorem and_fixedDigit (a : Nibble) : a &&& 0xF = a := BitVec.and_allOnes

theorem and_fixedByte (a : Byte) : a &&& 0xFF = a := BitVec.and_allOnes

theorem and_free {w : Nat} (a : BitVec w) : a &&& 0 = 0 := BitVec.and_zero

/-- The mask 0xF000 keeps the digit p. -/
theorem formatA_mask (p : Nibble) (nnn : Addr) : formatA p nnn &&& 0xF000 = formatA p 0 := by
  rw [show (0xF000 : Word) = formatA 0xF 0 from rfl, formatA_and, and_fixedDigit, and_free]

/-- The mask 0xF000 keeps the digit p. -/
theorem formatK_mask (p : Nibble) (x : Reg) (kk : Byte) : formatK p x kk &&& 0xF000 = formatK p 0 0 := by
  rw [show (0xF000 : Word) = formatK 0xF 0 0 from rfl, formatK_and, and_fixedDigit, and_free, and_free]

/-- The mask 0xF0FF keeps the digit p and the function code ff. -/
theorem formatS_mask (p : Nibble) (x : Reg) (ff : Byte) : formatK p x ff &&& 0xF0FF = formatK p 0 ff := by
  rw [show (0xF0FF : Word) = formatK 0xF 0 0xFF from rfl, formatK_and, and_fixedDigit, and_free, and_fixedByte]

/-- The mask 0xF00F keeps the digit p and the function code f. -/
theorem formatR_mask (p : Nibble) (x y : Reg) (f : Nibble) : formatR p x y f &&& 0xF00F = formatR p 0 0 f := by
  rw [show (0xF00F : Word) = formatR 0xF 0 0 0xF from rfl, formatR_and, and_fixedDigit, and_free, and_free,
    and_fixedDigit]

/-- The mask 0xF000 keeps the digit p. -/
theorem formatD_mask (p : Nibble) (x y : Reg) (n : Nibble) : formatR p x y n &&& 0xF000 = formatR p 0 0 0 := by
  rw [show (0xF000 : Word) = formatR 0xF 0 0 0 from rfl, formatR_and, and_fixedDigit, and_free, and_free, and_free]

end Sys2Proof
end

