-- ==== Sys2Proof/Laws/State.lean ====
section
/-! SUPPORT. One lemma per field and accessor per update of the state, true by unfolding, so that no later proof unfolds a
record update. -/

namespace Sys2Proof.Machine

variable (s : State)

/-! ### setReg -/

@[simp] theorem State.setReg_pc (x : Reg) (b : Byte) : (s.setReg x b).pc = s.pc := rfl
@[simp] theorem State.setReg_i (x : Reg) (b : Byte) : (s.setReg x b).i = s.i := rfl
@[simp] theorem State.setReg_sp (x : Reg) (b : Byte) : (s.setReg x b).sp = s.sp := rfl
@[simp] theorem State.setReg_stack (x : Reg) (b : Byte) : (s.setReg x b).stack = s.stack := rfl
@[simp] theorem State.setReg_dt (x : Reg) (b : Byte) : (s.setReg x b).dt = s.dt := rfl
@[simp] theorem State.setReg_st (x : Reg) (b : Byte) : (s.setReg x b).st = s.st := rfl
@[simp] theorem State.setReg_key (x : Reg) (b : Byte) : (s.setReg x b).key = s.key := rfl
@[simp] theorem State.setReg_res (x : Reg) (b : Byte) : (s.setReg x b).res = s.res := rfl
@[simp] theorem State.setReg_fb (x : Reg) (b : Byte) : (s.setReg x b).fb = s.fb := rfl
@[simp] theorem State.setReg_mem (x : Reg) (b : Byte) : (s.setReg x b).mem = s.mem := rfl
@[simp] theorem State.setReg_err (x : Reg) (b : Byte) : (s.setReg x b).err = s.err := rfl
@[simp] theorem State.setReg_font (x : Reg) (b : Byte) : (s.setReg x b).font = s.font := rfl
@[simp] theorem State.setReg_draws (x : Reg) (b : Byte) : (s.setReg x b).draws = s.draws := rfl
@[simp] theorem State.setReg_memRead (x : Reg) (b : Byte) (a : Nat) : (s.setReg x b).memRead a = s.memRead a := rfl
@[simp] theorem State.setReg_pixel (x : Reg) (b : Byte) (px py : Nat) : (s.setReg x b).pixel px py = s.pixel px py := rfl
@[simp] theorem State.setReg_keyDown (x : Reg) (b : Byte) (k : Fin 16) : (s.setReg x b).keyDown k = s.keyDown k := rfl
@[simp] theorem State.setReg_raised (x : Reg) (b : Byte) (e : Condition) : (s.setReg x b).raised e = s.raised e := rfl
@[simp] theorem State.setReg_width (x : Reg) (b : Byte) : (s.setReg x b).width = s.width := rfl
@[simp] theorem State.setReg_height (x : Reg) (b : Byte) : (s.setReg x b).height = s.height := rfl

/-! ### setI -/

@[simp] theorem State.setI_v (w : Word) : (s.setI w).v = s.v := rfl
@[simp] theorem State.setI_pc (w : Word) : (s.setI w).pc = s.pc := rfl
@[simp] theorem State.setI_i (w : Word) : (s.setI w).i = w := rfl
@[simp] theorem State.setI_sp (w : Word) : (s.setI w).sp = s.sp := rfl
@[simp] theorem State.setI_stack (w : Word) : (s.setI w).stack = s.stack := rfl
@[simp] theorem State.setI_dt (w : Word) : (s.setI w).dt = s.dt := rfl
@[simp] theorem State.setI_st (w : Word) : (s.setI w).st = s.st := rfl
@[simp] theorem State.setI_key (w : Word) : (s.setI w).key = s.key := rfl
@[simp] theorem State.setI_res (w : Word) : (s.setI w).res = s.res := rfl
@[simp] theorem State.setI_fb (w : Word) : (s.setI w).fb = s.fb := rfl
@[simp] theorem State.setI_mem (w : Word) : (s.setI w).mem = s.mem := rfl
@[simp] theorem State.setI_err (w : Word) : (s.setI w).err = s.err := rfl
@[simp] theorem State.setI_font (w : Word) : (s.setI w).font = s.font := rfl
@[simp] theorem State.setI_draws (w : Word) : (s.setI w).draws = s.draws := rfl
@[simp] theorem State.setI_reg (w : Word) (k : Reg) : (s.setI w).reg k = s.reg k := rfl
@[simp] theorem State.setI_memRead (w : Word) (a : Nat) : (s.setI w).memRead a = s.memRead a := rfl
@[simp] theorem State.setI_pixel (w : Word) (px py : Nat) : (s.setI w).pixel px py = s.pixel px py := rfl
@[simp] theorem State.setI_keyDown (w : Word) (k : Fin 16) : (s.setI w).keyDown k = s.keyDown k := rfl
@[simp] theorem State.setI_raised (w : Word) (e : Condition) : (s.setI w).raised e = s.raised e := rfl
@[simp] theorem State.setI_width (w : Word) : (s.setI w).width = s.width := rfl
@[simp] theorem State.setI_height (w : Word) : (s.setI w).height = s.height := rfl

/-! ### setDT -/

@[simp] theorem State.setDT_v (b : Byte) : (s.setDT b).v = s.v := rfl
@[simp] theorem State.setDT_pc (b : Byte) : (s.setDT b).pc = s.pc := rfl
@[simp] theorem State.setDT_i (b : Byte) : (s.setDT b).i = s.i := rfl
@[simp] theorem State.setDT_sp (b : Byte) : (s.setDT b).sp = s.sp := rfl
@[simp] theorem State.setDT_stack (b : Byte) : (s.setDT b).stack = s.stack := rfl
@[simp] theorem State.setDT_dt (b : Byte) : (s.setDT b).dt = b := rfl
@[simp] theorem State.setDT_st (b : Byte) : (s.setDT b).st = s.st := rfl
@[simp] theorem State.setDT_key (b : Byte) : (s.setDT b).key = s.key := rfl
@[simp] theorem State.setDT_res (b : Byte) : (s.setDT b).res = s.res := rfl
@[simp] theorem State.setDT_fb (b : Byte) : (s.setDT b).fb = s.fb := rfl
@[simp] theorem State.setDT_mem (b : Byte) : (s.setDT b).mem = s.mem := rfl
@[simp] theorem State.setDT_err (b : Byte) : (s.setDT b).err = s.err := rfl
@[simp] theorem State.setDT_font (b : Byte) : (s.setDT b).font = s.font := rfl
@[simp] theorem State.setDT_draws (b : Byte) : (s.setDT b).draws = s.draws := rfl
@[simp] theorem State.setDT_reg (b : Byte) (k : Reg) : (s.setDT b).reg k = s.reg k := rfl
@[simp] theorem State.setDT_memRead (b : Byte) (a : Nat) : (s.setDT b).memRead a = s.memRead a := rfl
@[simp] theorem State.setDT_pixel (b : Byte) (px py : Nat) : (s.setDT b).pixel px py = s.pixel px py := rfl
@[simp] theorem State.setDT_keyDown (b : Byte) (k : Fin 16) : (s.setDT b).keyDown k = s.keyDown k := rfl
@[simp] theorem State.setDT_raised (b : Byte) (e : Condition) : (s.setDT b).raised e = s.raised e := rfl
@[simp] theorem State.setDT_width (b : Byte) : (s.setDT b).width = s.width := rfl
@[simp] theorem State.setDT_height (b : Byte) : (s.setDT b).height = s.height := rfl

/-! ### setST -/

@[simp] theorem State.setST_v (b : Byte) : (s.setST b).v = s.v := rfl
@[simp] theorem State.setST_pc (b : Byte) : (s.setST b).pc = s.pc := rfl
@[simp] theorem State.setST_i (b : Byte) : (s.setST b).i = s.i := rfl
@[simp] theorem State.setST_sp (b : Byte) : (s.setST b).sp = s.sp := rfl
@[simp] theorem State.setST_stack (b : Byte) : (s.setST b).stack = s.stack := rfl
@[simp] theorem State.setST_dt (b : Byte) : (s.setST b).dt = s.dt := rfl
@[simp] theorem State.setST_st (b : Byte) : (s.setST b).st = b := rfl
@[simp] theorem State.setST_key (b : Byte) : (s.setST b).key = s.key := rfl
@[simp] theorem State.setST_res (b : Byte) : (s.setST b).res = s.res := rfl
@[simp] theorem State.setST_fb (b : Byte) : (s.setST b).fb = s.fb := rfl
@[simp] theorem State.setST_mem (b : Byte) : (s.setST b).mem = s.mem := rfl
@[simp] theorem State.setST_err (b : Byte) : (s.setST b).err = s.err := rfl
@[simp] theorem State.setST_font (b : Byte) : (s.setST b).font = s.font := rfl
@[simp] theorem State.setST_draws (b : Byte) : (s.setST b).draws = s.draws := rfl
@[simp] theorem State.setST_reg (b : Byte) (k : Reg) : (s.setST b).reg k = s.reg k := rfl
@[simp] theorem State.setST_memRead (b : Byte) (a : Nat) : (s.setST b).memRead a = s.memRead a := rfl
@[simp] theorem State.setST_pixel (b : Byte) (px py : Nat) : (s.setST b).pixel px py = s.pixel px py := rfl
@[simp] theorem State.setST_keyDown (b : Byte) (k : Fin 16) : (s.setST b).keyDown k = s.keyDown k := rfl
@[simp] theorem State.setST_raised (b : Byte) (e : Condition) : (s.setST b).raised e = s.raised e := rfl
@[simp] theorem State.setST_width (b : Byte) : (s.setST b).width = s.width := rfl
@[simp] theorem State.setST_height (b : Byte) : (s.setST b).height = s.height := rfl

/-! ### setFB -/

@[simp] theorem State.setFB_v (fb : Screen) : (s.setFB fb).v = s.v := rfl
@[simp] theorem State.setFB_pc (fb : Screen) : (s.setFB fb).pc = s.pc := rfl
@[simp] theorem State.setFB_i (fb : Screen) : (s.setFB fb).i = s.i := rfl
@[simp] theorem State.setFB_sp (fb : Screen) : (s.setFB fb).sp = s.sp := rfl
@[simp] theorem State.setFB_stack (fb : Screen) : (s.setFB fb).stack = s.stack := rfl
@[simp] theorem State.setFB_dt (fb : Screen) : (s.setFB fb).dt = s.dt := rfl
@[simp] theorem State.setFB_st (fb : Screen) : (s.setFB fb).st = s.st := rfl
@[simp] theorem State.setFB_key (fb : Screen) : (s.setFB fb).key = s.key := rfl
@[simp] theorem State.setFB_res (fb : Screen) : (s.setFB fb).res = s.res := rfl
@[simp] theorem State.setFB_fb (fb : Screen) : (s.setFB fb).fb = fb := rfl
@[simp] theorem State.setFB_mem (fb : Screen) : (s.setFB fb).mem = s.mem := rfl
@[simp] theorem State.setFB_err (fb : Screen) : (s.setFB fb).err = s.err := rfl
@[simp] theorem State.setFB_font (fb : Screen) : (s.setFB fb).font = s.font := rfl
@[simp] theorem State.setFB_draws (fb : Screen) : (s.setFB fb).draws = s.draws := rfl
@[simp] theorem State.setFB_reg (fb : Screen) (k : Reg) : (s.setFB fb).reg k = s.reg k := rfl
@[simp] theorem State.setFB_memRead (fb : Screen) (a : Nat) : (s.setFB fb).memRead a = s.memRead a := rfl
@[simp] theorem State.setFB_keyDown (fb : Screen) (k : Fin 16) : (s.setFB fb).keyDown k = s.keyDown k := rfl
@[simp] theorem State.setFB_raised (fb : Screen) (e : Condition) : (s.setFB fb).raised e = s.raised e := rfl
@[simp] theorem State.setFB_width (fb : Screen) : (s.setFB fb).width = s.width := rfl
@[simp] theorem State.setFB_height (fb : Screen) : (s.setFB fb).height = s.height := rfl

/-! ### jump -/

@[simp] theorem State.jump_v (w : Word) : (s.jump w).v = s.v := rfl
@[simp] theorem State.jump_pc (w : Word) : (s.jump w).pc = w := rfl
@[simp] theorem State.jump_i (w : Word) : (s.jump w).i = s.i := rfl
@[simp] theorem State.jump_sp (w : Word) : (s.jump w).sp = s.sp := rfl
@[simp] theorem State.jump_stack (w : Word) : (s.jump w).stack = s.stack := rfl
@[simp] theorem State.jump_dt (w : Word) : (s.jump w).dt = s.dt := rfl
@[simp] theorem State.jump_st (w : Word) : (s.jump w).st = s.st := rfl
@[simp] theorem State.jump_key (w : Word) : (s.jump w).key = s.key := rfl
@[simp] theorem State.jump_res (w : Word) : (s.jump w).res = s.res := rfl
@[simp] theorem State.jump_fb (w : Word) : (s.jump w).fb = s.fb := rfl
@[simp] theorem State.jump_mem (w : Word) : (s.jump w).mem = s.mem := rfl
@[simp] theorem State.jump_err (w : Word) : (s.jump w).err = s.err := rfl
@[simp] theorem State.jump_font (w : Word) : (s.jump w).font = s.font := rfl
@[simp] theorem State.jump_draws (w : Word) : (s.jump w).draws = s.draws := rfl
@[simp] theorem State.jump_reg (w : Word) (k : Reg) : (s.jump w).reg k = s.reg k := rfl
@[simp] theorem State.jump_memRead (w : Word) (a : Nat) : (s.jump w).memRead a = s.memRead a := rfl
@[simp] theorem State.jump_pixel (w : Word) (px py : Nat) : (s.jump w).pixel px py = s.pixel px py := rfl
@[simp] theorem State.jump_keyDown (w : Word) (k : Fin 16) : (s.jump w).keyDown k = s.keyDown k := rfl
@[simp] theorem State.jump_raised (w : Word) (e : Condition) : (s.jump w).raised e = s.raised e := rfl
@[simp] theorem State.jump_width (w : Word) : (s.jump w).width = s.width := rfl
@[simp] theorem State.jump_height (w : Word) : (s.jump w).height = s.height := rfl

/-! ### advance -/

@[simp] theorem State.advance_v : (s.advance).v = s.v := rfl
@[simp] theorem State.advance_pc : (s.advance).pc = s.pc + 2 := rfl
@[simp] theorem State.advance_i : (s.advance).i = s.i := rfl
@[simp] theorem State.advance_sp : (s.advance).sp = s.sp := rfl
@[simp] theorem State.advance_stack : (s.advance).stack = s.stack := rfl
@[simp] theorem State.advance_dt : (s.advance).dt = s.dt := rfl
@[simp] theorem State.advance_st : (s.advance).st = s.st := rfl
@[simp] theorem State.advance_key : (s.advance).key = s.key := rfl
@[simp] theorem State.advance_res : (s.advance).res = s.res := rfl
@[simp] theorem State.advance_fb : (s.advance).fb = s.fb := rfl
@[simp] theorem State.advance_mem : (s.advance).mem = s.mem := rfl
@[simp] theorem State.advance_err : (s.advance).err = s.err := rfl
@[simp] theorem State.advance_font : (s.advance).font = s.font := rfl
@[simp] theorem State.advance_draws : (s.advance).draws = s.draws := rfl
@[simp] theorem State.advance_reg (k : Reg) : (s.advance).reg k = s.reg k := rfl
@[simp] theorem State.advance_memRead (a : Nat) : (s.advance).memRead a = s.memRead a := rfl
@[simp] theorem State.advance_pixel (px py : Nat) : (s.advance).pixel px py = s.pixel px py := rfl
@[simp] theorem State.advance_keyDown (k : Fin 16) : (s.advance).keyDown k = s.keyDown k := rfl
@[simp] theorem State.advance_raised (e : Condition) : (s.advance).raised e = s.raised e := rfl
@[simp] theorem State.advance_width : (s.advance).width = s.width := rfl
@[simp] theorem State.advance_height : (s.advance).height = s.height := rfl

/-! ### skipIf -/

@[simp] theorem State.skipIf_v (c : Bool) : (s.skipIf c).v = s.v := rfl
@[simp] theorem State.skipIf_pc (c : Bool) : (s.skipIf c).pc = if c then s.pc + 4 else s.pc + 2 := rfl
@[simp] theorem State.skipIf_i (c : Bool) : (s.skipIf c).i = s.i := rfl
@[simp] theorem State.skipIf_sp (c : Bool) : (s.skipIf c).sp = s.sp := rfl
@[simp] theorem State.skipIf_stack (c : Bool) : (s.skipIf c).stack = s.stack := rfl
@[simp] theorem State.skipIf_dt (c : Bool) : (s.skipIf c).dt = s.dt := rfl
@[simp] theorem State.skipIf_st (c : Bool) : (s.skipIf c).st = s.st := rfl
@[simp] theorem State.skipIf_key (c : Bool) : (s.skipIf c).key = s.key := rfl
@[simp] theorem State.skipIf_res (c : Bool) : (s.skipIf c).res = s.res := rfl
@[simp] theorem State.skipIf_fb (c : Bool) : (s.skipIf c).fb = s.fb := rfl
@[simp] theorem State.skipIf_mem (c : Bool) : (s.skipIf c).mem = s.mem := rfl
@[simp] theorem State.skipIf_err (c : Bool) : (s.skipIf c).err = s.err := rfl
@[simp] theorem State.skipIf_font (c : Bool) : (s.skipIf c).font = s.font := rfl
@[simp] theorem State.skipIf_draws (c : Bool) : (s.skipIf c).draws = s.draws := rfl
@[simp] theorem State.skipIf_reg (c : Bool) (k : Reg) : (s.skipIf c).reg k = s.reg k := rfl
@[simp] theorem State.skipIf_memRead (c : Bool) (a : Nat) : (s.skipIf c).memRead a = s.memRead a := rfl
@[simp] theorem State.skipIf_pixel (c : Bool) (px py : Nat) : (s.skipIf c).pixel px py = s.pixel px py := rfl
@[simp] theorem State.skipIf_keyDown (c : Bool) (k : Fin 16) : (s.skipIf c).keyDown k = s.keyDown k := rfl
@[simp] theorem State.skipIf_raised (c : Bool) (e : Condition) : (s.skipIf c).raised e = s.raised e := rfl
@[simp] theorem State.skipIf_width (c : Bool) : (s.skipIf c).width = s.width := rfl
@[simp] theorem State.skipIf_height (c : Bool) : (s.skipIf c).height = s.height := rfl

/-! ### memWrite -/

@[simp] theorem State.memWrite_v (addr : Nat) (b : Byte) : (s.memWrite addr b).v = s.v := rfl
@[simp] theorem State.memWrite_pc (addr : Nat) (b : Byte) : (s.memWrite addr b).pc = s.pc := rfl
@[simp] theorem State.memWrite_i (addr : Nat) (b : Byte) : (s.memWrite addr b).i = s.i := rfl
@[simp] theorem State.memWrite_sp (addr : Nat) (b : Byte) : (s.memWrite addr b).sp = s.sp := rfl
@[simp] theorem State.memWrite_stack (addr : Nat) (b : Byte) : (s.memWrite addr b).stack = s.stack := rfl
@[simp] theorem State.memWrite_dt (addr : Nat) (b : Byte) : (s.memWrite addr b).dt = s.dt := rfl
@[simp] theorem State.memWrite_st (addr : Nat) (b : Byte) : (s.memWrite addr b).st = s.st := rfl
@[simp] theorem State.memWrite_key (addr : Nat) (b : Byte) : (s.memWrite addr b).key = s.key := rfl
@[simp] theorem State.memWrite_res (addr : Nat) (b : Byte) : (s.memWrite addr b).res = s.res := rfl
@[simp] theorem State.memWrite_fb (addr : Nat) (b : Byte) : (s.memWrite addr b).fb = s.fb := rfl
@[simp] theorem State.memWrite_err (addr : Nat) (b : Byte) : (s.memWrite addr b).err = s.err := rfl
@[simp] theorem State.memWrite_font (addr : Nat) (b : Byte) : (s.memWrite addr b).font = s.font := rfl
@[simp] theorem State.memWrite_draws (addr : Nat) (b : Byte) : (s.memWrite addr b).draws = s.draws := rfl
@[simp] theorem State.memWrite_reg (addr : Nat) (b : Byte) (k : Reg) : (s.memWrite addr b).reg k = s.reg k := rfl
@[simp] theorem State.memWrite_pixel (addr : Nat) (b : Byte) (px py : Nat) : (s.memWrite addr b).pixel px py = s.pixel px py := rfl
@[simp] theorem State.memWrite_keyDown (addr : Nat) (b : Byte) (k : Fin 16) : (s.memWrite addr b).keyDown k = s.keyDown k := rfl
@[simp] theorem State.memWrite_raised (addr : Nat) (b : Byte) (e : Condition) : (s.memWrite addr b).raised e = s.raised e := rfl
@[simp] theorem State.memWrite_width (addr : Nat) (b : Byte) : (s.memWrite addr b).width = s.width := rfl
@[simp] theorem State.memWrite_height (addr : Nat) (b : Byte) : (s.memWrite addr b).height = s.height := rfl

/-! ### raiseCondition -/

@[simp] theorem State.raiseCondition_v (d : Condition) : (s.raiseCondition d).v = s.v := rfl
@[simp] theorem State.raiseCondition_pc (d : Condition) : (s.raiseCondition d).pc = s.pc + 2 := rfl
@[simp] theorem State.raiseCondition_i (d : Condition) : (s.raiseCondition d).i = s.i := rfl
@[simp] theorem State.raiseCondition_sp (d : Condition) : (s.raiseCondition d).sp = s.sp := rfl
@[simp] theorem State.raiseCondition_stack (d : Condition) : (s.raiseCondition d).stack = s.stack := rfl
@[simp] theorem State.raiseCondition_dt (d : Condition) : (s.raiseCondition d).dt = s.dt := rfl
@[simp] theorem State.raiseCondition_st (d : Condition) : (s.raiseCondition d).st = s.st := rfl
@[simp] theorem State.raiseCondition_key (d : Condition) : (s.raiseCondition d).key = s.key := rfl
@[simp] theorem State.raiseCondition_res (d : Condition) : (s.raiseCondition d).res = s.res := rfl
@[simp] theorem State.raiseCondition_fb (d : Condition) : (s.raiseCondition d).fb = s.fb := rfl
@[simp] theorem State.raiseCondition_mem (d : Condition) : (s.raiseCondition d).mem = s.mem := rfl
@[simp] theorem State.raiseCondition_err (d : Condition) : (s.raiseCondition d).err = s.err ||| d.mask := rfl
@[simp] theorem State.raiseCondition_font (d : Condition) : (s.raiseCondition d).font = s.font := rfl
@[simp] theorem State.raiseCondition_draws (d : Condition) : (s.raiseCondition d).draws = s.draws := rfl
@[simp] theorem State.raiseCondition_reg (d : Condition) (k : Reg) : (s.raiseCondition d).reg k = s.reg k := rfl
@[simp] theorem State.raiseCondition_memRead (d : Condition) (a : Nat) : (s.raiseCondition d).memRead a = s.memRead a := rfl
@[simp] theorem State.raiseCondition_pixel (d : Condition) (px py : Nat) : (s.raiseCondition d).pixel px py = s.pixel px py := rfl
@[simp] theorem State.raiseCondition_keyDown (d : Condition) (k : Fin 16) : (s.raiseCondition d).keyDown k = s.keyDown k := rfl
@[simp] theorem State.raiseCondition_width (d : Condition) : (s.raiseCondition d).width = s.width := rfl
@[simp] theorem State.raiseCondition_height (d : Condition) : (s.raiseCondition d).height = s.height := rfl

/-! ### push -/

@[simp] theorem State.push_v (w : Word) (h : s.sp.val < 16) : (s.push w h).v = s.v := rfl
@[simp] theorem State.push_pc (w : Word) (h : s.sp.val < 16) : (s.push w h).pc = s.pc := rfl
@[simp] theorem State.push_i (w : Word) (h : s.sp.val < 16) : (s.push w h).i = s.i := rfl
@[simp] theorem State.push_sp (w : Word) (h : s.sp.val < 16) : (s.push w h).sp = ⟨s.sp.val + 1, by omega⟩ := rfl
@[simp] theorem State.push_stack (w : Word) (h : s.sp.val < 16) : (s.push w h).stack = s.stack.set s.sp.val w h := rfl
@[simp] theorem State.push_dt (w : Word) (h : s.sp.val < 16) : (s.push w h).dt = s.dt := rfl
@[simp] theorem State.push_st (w : Word) (h : s.sp.val < 16) : (s.push w h).st = s.st := rfl
@[simp] theorem State.push_key (w : Word) (h : s.sp.val < 16) : (s.push w h).key = s.key := rfl
@[simp] theorem State.push_res (w : Word) (h : s.sp.val < 16) : (s.push w h).res = s.res := rfl
@[simp] theorem State.push_fb (w : Word) (h : s.sp.val < 16) : (s.push w h).fb = s.fb := rfl
@[simp] theorem State.push_mem (w : Word) (h : s.sp.val < 16) : (s.push w h).mem = s.mem := rfl
@[simp] theorem State.push_err (w : Word) (h : s.sp.val < 16) : (s.push w h).err = s.err := rfl
@[simp] theorem State.push_font (w : Word) (h : s.sp.val < 16) : (s.push w h).font = s.font := rfl
@[simp] theorem State.push_draws (w : Word) (h : s.sp.val < 16) : (s.push w h).draws = s.draws := rfl
@[simp] theorem State.push_reg (w : Word) (h : s.sp.val < 16) (k : Reg) : (s.push w h).reg k = s.reg k := rfl
@[simp] theorem State.push_memRead (w : Word) (h : s.sp.val < 16) (a : Nat) : (s.push w h).memRead a = s.memRead a := rfl
@[simp] theorem State.push_pixel (w : Word) (h : s.sp.val < 16) (px py : Nat) : (s.push w h).pixel px py = s.pixel px py := rfl
@[simp] theorem State.push_keyDown (w : Word) (h : s.sp.val < 16) (k : Fin 16) : (s.push w h).keyDown k = s.keyDown k := rfl
@[simp] theorem State.push_raised (w : Word) (h : s.sp.val < 16) (e : Condition) : (s.push w h).raised e = s.raised e := rfl
@[simp] theorem State.push_width (w : Word) (h : s.sp.val < 16) : (s.push w h).width = s.width := rfl
@[simp] theorem State.push_height (w : Word) (h : s.sp.val < 16) : (s.push w h).height = s.height := rfl

/-! ### popTo -/

@[simp] theorem State.popTo_v (n : Nat) (h : n < 16) : (s.popTo n h).v = s.v := rfl
@[simp] theorem State.popTo_pc (n : Nat) (h : n < 16) : (s.popTo n h).pc = s.stack[n] := rfl
@[simp] theorem State.popTo_i (n : Nat) (h : n < 16) : (s.popTo n h).i = s.i := rfl
@[simp] theorem State.popTo_sp (n : Nat) (h : n < 16) : (s.popTo n h).sp = ⟨n, by omega⟩ := rfl
@[simp] theorem State.popTo_stack (n : Nat) (h : n < 16) : (s.popTo n h).stack = s.stack := rfl
@[simp] theorem State.popTo_dt (n : Nat) (h : n < 16) : (s.popTo n h).dt = s.dt := rfl
@[simp] theorem State.popTo_st (n : Nat) (h : n < 16) : (s.popTo n h).st = s.st := rfl
@[simp] theorem State.popTo_key (n : Nat) (h : n < 16) : (s.popTo n h).key = s.key := rfl
@[simp] theorem State.popTo_res (n : Nat) (h : n < 16) : (s.popTo n h).res = s.res := rfl
@[simp] theorem State.popTo_fb (n : Nat) (h : n < 16) : (s.popTo n h).fb = s.fb := rfl
@[simp] theorem State.popTo_mem (n : Nat) (h : n < 16) : (s.popTo n h).mem = s.mem := rfl
@[simp] theorem State.popTo_err (n : Nat) (h : n < 16) : (s.popTo n h).err = s.err := rfl
@[simp] theorem State.popTo_font (n : Nat) (h : n < 16) : (s.popTo n h).font = s.font := rfl
@[simp] theorem State.popTo_draws (n : Nat) (h : n < 16) : (s.popTo n h).draws = s.draws := rfl
@[simp] theorem State.popTo_reg (n : Nat) (h : n < 16) (k : Reg) : (s.popTo n h).reg k = s.reg k := rfl
@[simp] theorem State.popTo_memRead (n : Nat) (h : n < 16) (a : Nat) : (s.popTo n h).memRead a = s.memRead a := rfl
@[simp] theorem State.popTo_pixel (n : Nat) (h : n < 16) (px py : Nat) : (s.popTo n h).pixel px py = s.pixel px py := rfl
@[simp] theorem State.popTo_keyDown (n : Nat) (h : n < 16) (k : Fin 16) : (s.popTo n h).keyDown k = s.keyDown k := rfl
@[simp] theorem State.popTo_raised (n : Nat) (h : n < 16) (e : Condition) : (s.popTo n h).raised e = s.raised e := rfl
@[simp] theorem State.popTo_width (n : Nat) (h : n < 16) : (s.popTo n h).width = s.width := rfl
@[simp] theorem State.popTo_height (n : Nat) (h : n < 16) : (s.popTo n h).height = s.height := rfl

/-! ### takeRandom -/

@[simp] theorem State.takeRandom_pc (x : Reg) (kk r : Byte) : (s.takeRandom x kk r).pc = s.pc := rfl
@[simp] theorem State.takeRandom_i (x : Reg) (kk r : Byte) : (s.takeRandom x kk r).i = s.i := rfl
@[simp] theorem State.takeRandom_sp (x : Reg) (kk r : Byte) : (s.takeRandom x kk r).sp = s.sp := rfl
@[simp] theorem State.takeRandom_stack (x : Reg) (kk r : Byte) : (s.takeRandom x kk r).stack = s.stack := rfl
@[simp] theorem State.takeRandom_dt (x : Reg) (kk r : Byte) : (s.takeRandom x kk r).dt = s.dt := rfl
@[simp] theorem State.takeRandom_st (x : Reg) (kk r : Byte) : (s.takeRandom x kk r).st = s.st := rfl
@[simp] theorem State.takeRandom_key (x : Reg) (kk r : Byte) : (s.takeRandom x kk r).key = s.key := rfl
@[simp] theorem State.takeRandom_res (x : Reg) (kk r : Byte) : (s.takeRandom x kk r).res = s.res := rfl
@[simp] theorem State.takeRandom_fb (x : Reg) (kk r : Byte) : (s.takeRandom x kk r).fb = s.fb := rfl
@[simp] theorem State.takeRandom_mem (x : Reg) (kk r : Byte) : (s.takeRandom x kk r).mem = s.mem := rfl
@[simp] theorem State.takeRandom_err (x : Reg) (kk r : Byte) : (s.takeRandom x kk r).err = s.err := rfl
@[simp] theorem State.takeRandom_font (x : Reg) (kk r : Byte) : (s.takeRandom x kk r).font = s.font := rfl
@[simp] theorem State.takeRandom_draws (x : Reg) (kk r : Byte) : (s.takeRandom x kk r).draws = s.draws + 1 := rfl
@[simp] theorem State.takeRandom_memRead (x : Reg) (kk r : Byte) (a : Nat) : (s.takeRandom x kk r).memRead a = s.memRead a := rfl
@[simp] theorem State.takeRandom_pixel (x : Reg) (kk r : Byte) (px py : Nat) : (s.takeRandom x kk r).pixel px py = s.pixel px py := rfl
@[simp] theorem State.takeRandom_keyDown (x : Reg) (kk r : Byte) (k : Fin 16) : (s.takeRandom x kk r).keyDown k = s.keyDown k := rfl
@[simp] theorem State.takeRandom_raised (x : Reg) (kk r : Byte) (e : Condition) : (s.takeRandom x kk r).raised e = s.raised e := rfl
@[simp] theorem State.takeRandom_width (x : Reg) (kk r : Byte) : (s.takeRandom x kk r).width = s.width := rfl
@[simp] theorem State.takeRandom_height (x : Reg) (kk r : Byte) : (s.takeRandom x kk r).height = s.height := rfl

/-! ### tick -/

@[simp] theorem State.tick_v : (s.tick).v = s.v := rfl
@[simp] theorem State.tick_pc : (s.tick).pc = s.pc := rfl
@[simp] theorem State.tick_i : (s.tick).i = s.i := rfl
@[simp] theorem State.tick_sp : (s.tick).sp = s.sp := rfl
@[simp] theorem State.tick_stack : (s.tick).stack = s.stack := rfl
@[simp] theorem State.tick_dt : (s.tick).dt = ticked s.dt := rfl
@[simp] theorem State.tick_st : (s.tick).st = ticked s.st := rfl
@[simp] theorem State.tick_key : (s.tick).key = s.key := rfl
@[simp] theorem State.tick_res : (s.tick).res = s.res := rfl
@[simp] theorem State.tick_fb : (s.tick).fb = s.fb := rfl
@[simp] theorem State.tick_mem : (s.tick).mem = s.mem := rfl
@[simp] theorem State.tick_err : (s.tick).err = s.err := rfl
@[simp] theorem State.tick_font : (s.tick).font = s.font := rfl
@[simp] theorem State.tick_draws : (s.tick).draws = s.draws := rfl
@[simp] theorem State.tick_reg (k : Reg) : (s.tick).reg k = s.reg k := rfl
@[simp] theorem State.tick_memRead (a : Nat) : (s.tick).memRead a = s.memRead a := rfl
@[simp] theorem State.tick_pixel (px py : Nat) : (s.tick).pixel px py = s.pixel px py := rfl
@[simp] theorem State.tick_keyDown (k : Fin 16) : (s.tick).keyDown k = s.keyDown k := rfl
@[simp] theorem State.tick_raised (e : Condition) : (s.tick).raised e = s.raised e := rfl
@[simp] theorem State.tick_width : (s.tick).width = s.width := rfl
@[simp] theorem State.tick_height : (s.tick).height = s.height := rfl

/-! ### setKey: one field, under a bound -/

@[simp] theorem State.setKey_v (index : Nat) (pressed : Bool) : (s.setKey index pressed).v = s.v := by
  unfold State.setKey; split <;> rfl
@[simp] theorem State.setKey_pc (index : Nat) (pressed : Bool) : (s.setKey index pressed).pc = s.pc := by
  unfold State.setKey; split <;> rfl
@[simp] theorem State.setKey_i (index : Nat) (pressed : Bool) : (s.setKey index pressed).i = s.i := by
  unfold State.setKey; split <;> rfl
@[simp] theorem State.setKey_sp (index : Nat) (pressed : Bool) : (s.setKey index pressed).sp = s.sp := by
  unfold State.setKey; split <;> rfl
@[simp] theorem State.setKey_stack (index : Nat) (pressed : Bool) : (s.setKey index pressed).stack = s.stack := by
  unfold State.setKey; split <;> rfl
@[simp] theorem State.setKey_dt (index : Nat) (pressed : Bool) : (s.setKey index pressed).dt = s.dt := by
  unfold State.setKey; split <;> rfl
@[simp] theorem State.setKey_st (index : Nat) (pressed : Bool) : (s.setKey index pressed).st = s.st := by
  unfold State.setKey; split <;> rfl
@[simp] theorem State.setKey_res (index : Nat) (pressed : Bool) : (s.setKey index pressed).res = s.res := by
  unfold State.setKey; split <;> rfl
@[simp] theorem State.setKey_fb (index : Nat) (pressed : Bool) : (s.setKey index pressed).fb = s.fb := by
  unfold State.setKey; split <;> rfl
@[simp] theorem State.setKey_mem (index : Nat) (pressed : Bool) : (s.setKey index pressed).mem = s.mem := by
  unfold State.setKey; split <;> rfl
@[simp] theorem State.setKey_err (index : Nat) (pressed : Bool) : (s.setKey index pressed).err = s.err := by
  unfold State.setKey; split <;> rfl
@[simp] theorem State.setKey_font (index : Nat) (pressed : Bool) : (s.setKey index pressed).font = s.font := by
  unfold State.setKey; split <;> rfl
@[simp] theorem State.setKey_draws (index : Nat) (pressed : Bool) : (s.setKey index pressed).draws = s.draws := by
  unfold State.setKey; split <;> rfl

/-! ### Reading a register after writing one -/

/-- No register is hard-wired and no two share storage (R20). -/
@[simp] theorem State.reg_setReg (x k : Reg) (b : Byte) : (s.setReg x b).reg k = if k = x then b else s.reg k := by
  simp only [State.reg, State.setReg, Vector.getElem_set, BitVec.toNat_inj]
  split <;> simp_all [eq_comm]

@[simp] theorem State.reg_takeRandom (x k : Reg) (kk r : Byte) :
    (s.takeRandom x kk r).reg k = if k = x then r &&& kk else s.reg k :=
  State.reg_setReg s x k (r &&& kk)

/-- Two states with the same registers one by one have the same register file. -/
theorem State.v_ext {s t : State} (h : ∀ k : Reg, t.reg k = s.reg k) : t.v = s.v := by
  apply Vector.ext
  intro j hj
  have := h (BitVec.ofNat 4 j)
  have e : (BitVec.ofNat 4 j).toNat = j := by simpa using Nat.mod_eq_of_lt hj
  simpa [State.reg, e] using this

end Sys2Proof.Machine
end

