-- ==== Sys2Proof/Laws/Memory.lean ====
section
/-! SUPPORT. MEM: a read after a write, and the canonical form every operation keeps (spec/20_memory.md R52, R56). -/

namespace Sys2Proof.Machine

/-! ### The list of cells -/

theorem Memory.find_insert (m : Memory) (a b : Nat) (v : Byte) :
    Memory.find (Memory.insert m a v) b = if b = a then some v else Memory.find m b := by
  induction m with
  | nil => simp [Memory.insert, Memory.find, eq_comm]
  | cons c rest ih =>
    obtain ⟨d, w⟩ := c
    simp only [Memory.insert]
    split
    · simp [Memory.find, eq_comm]
    · split
      · subst_vars; simp only [Memory.find]; split <;> simp_all [eq_comm]
      · simp only [Memory.find, ih]; split <;> split <;> simp_all

theorem Memory.find_remove (m : Memory) (a b : Nat) :
    Memory.find (Memory.remove m a) b = if b = a then none else Memory.find m b := by
  induction m with
  | nil => simp [Memory.remove, Memory.find]
  | cons c rest ih =>
    obtain ⟨d, w⟩ := c
    simp only [Memory.remove, List.filter_cons] at ih ⊢
    by_cases hd : d = a
    · subst hd; simp only [bne_self_eq_false, Bool.false_eq_true, if_false, ih, Memory.find]
      split <;> simp_all [eq_comm]
    · simp only [bne_iff_ne, ne_eq, hd, not_false_eq_true, if_true, Memory.find, ih]
      split <;> split <;> simp_all

/-- A read after a write gives the byte written, and every other address reads as before. -/
@[simp] theorem Memory.read_write (font : Font) (m : Memory) (a b : Nat) (v : Byte) :
    Memory.read font (Memory.write font m a v) b = if b = a then v else Memory.read font m b := by
  unfold Memory.read Memory.write
  by_cases hv : v = Memory.unlisted font a
  · subst hv; by_cases hb : b = a <;> simp [hb, Memory.find_remove]
  · by_cases hb : b = a <;> simp [hb, hv, Memory.find_insert]

/-! ### The canonical form -/

theorem Memory.mem_insert {m : Memory} {a : Nat} {v : Byte} {c : Host.Cell} (h : c ∈ Memory.insert m a v) :
    c = (a, v) ∨ c ∈ m := by
  induction m with
  | nil => simpa [Memory.insert] using h
  | cons d rest ih =>
    obtain ⟨d, w⟩ := d
    simp only [Memory.insert] at h
    split at h
    · simpa using h
    · split at h
      · rcases List.mem_cons.1 h with h | h
        · exact .inl h
        · exact .inr (List.mem_cons_of_mem _ h)
      · rcases List.mem_cons.1 h with h | h
        · exact .inr (h ▸ List.mem_cons_self)
        · exact (ih h).imp_right (List.mem_cons_of_mem _)

theorem Memory.pairwise_insert {m : Memory} (h : m.Pairwise fun p q => p.1 < q.1) (a : Nat) (v : Byte) :
    (Memory.insert m a v).Pairwise fun p q => p.1 < q.1 := by
  induction m with
  | nil => simp [Memory.insert]
  | cons c rest ih =>
    obtain ⟨d, w⟩ := c
    obtain ⟨hd, hr⟩ := List.pairwise_cons.1 h
    simp only [Memory.insert]
    split
    next had =>
      refine List.pairwise_cons.2 ⟨fun q hq => ?_, h⟩
      rcases List.mem_cons.1 hq with hq | hq
      · simpa [hq] using had
      · exact had.trans (hd q hq)
    next had =>
      split
      next e => subst e; exact List.pairwise_cons.2 ⟨hd, hr⟩
      next hne =>
        refine List.pairwise_cons.2 ⟨fun q hq => ?_, ih hr⟩
        rcases Memory.mem_insert hq with hq | hq
        · subst hq; show d < a; omega
        · exact hd q hq

/-- Every write keeps the canonical form. -/
theorem Memory.wf_write {font : Font} {m : Memory} (h : Memory.wf font m) {a : Nat} (ha : a < Config.memSize)
    (v : Byte) : Memory.wf font (Memory.write font m a v) := by
  unfold Memory.write
  split
  · exact ⟨h.1.filter _, fun c hc => h.2 c (List.mem_filter.1 hc).1⟩
  · refine ⟨Memory.pairwise_insert h.1 a v, fun c hc => ?_⟩
    rcases Memory.mem_insert hc with hc | hc
    · subst hc; exact ⟨ha, by assumption⟩
    · exact h.2 c hc

theorem Memory.wf_nil (font : Font) : Memory.wf font [] := by simp [Memory.wf]

/-! ### The state's memory -/

theorem effectiveAddress_lt (addr : Nat) : effectiveAddress addr < Config.memSize := Nat.mod_lt _ (by decide)

/-- MemRead after MemWrite: the effective addresses decide (R12, R52, R56). -/
@[simp] theorem State.memRead_memWrite (s : State) (addr a : Nat) (b : Byte) :
    (s.memWrite addr b).memRead a = if effectiveAddress a = effectiveAddress addr then b else s.memRead a :=
  Memory.read_write s.font s.mem _ _ b

/-- An address and the address reduced modulo 4096 name the same byte (R52). -/
theorem State.memRead_mod (s : State) (a : Nat) : s.memRead (a % 4096) = s.memRead a := by
  simp [State.memRead, effectiveAddress, Config.memSize]

theorem State.wf_memWrite {s : State} (h : Memory.wf s.font s.mem) (addr : Nat) (b : Byte) :
    Memory.wf (s.memWrite addr b).font (s.memWrite addr b).mem :=
  Memory.wf_write h (effectiveAddress_lt addr) b

/-- The parts of the state no memory write touches, said of any number of writes. -/
structure State.SameButMem (s t : State) : Prop where
  rest : t = { s with mem := t.mem }

theorem State.SameButMem.refl (s : State) : State.SameButMem s s := ⟨rfl⟩

theorem State.SameButMem.memWrite {s t : State} (h : State.SameButMem s t) (addr : Nat) (b : Byte) :
    State.SameButMem s (t.memWrite addr b) := by
  obtain ⟨h⟩ := h
  constructor
  rw [h]
  rfl

/-- The effective addresses of the bytes at `base`, `base + 1`, … of up to 4096 bytes are distinct (R55). -/
theorem effectiveAddress_inj {base j k : Nat} (hj : j < 4096) (hk : k < 4096)
    (h : effectiveAddress (base + j) = effectiveAddress (base + k)) : j = k := by
  simp only [effectiveAddress, Config.memSize] at h
  omega

/-- FX55's stores: only MEM changes; the byte at I + k is V[k] for k < n; every other byte is as before (R130). -/
theorem State.storeRegs_spec (s : State) (n : Nat) (hn : n ≤ 16) :
    State.SameButMem s (s.storeRegs n) ∧
    (Memory.wf s.font s.mem → Memory.wf s.font (s.storeRegs n).mem) ∧
    (∀ k, k < n → (s.storeRegs n).memRead (indexed s.i k) = s.reg (BitVec.ofNat 4 k)) ∧
    (∀ a, (∀ k, k < n → effectiveAddress (indexed s.i k) ≠ effectiveAddress a) →
      (s.storeRegs n).memRead a = s.memRead a) := by
  induction n with
  | zero => exact ⟨⟨rfl⟩, id, by simp, fun _ _ => rfl⟩
  | succ n ih =>
    obtain ⟨ihs, ihw, ihk, iha⟩ := ih (by omega)
    have e : s.storeRegs (n + 1) = (s.storeRegs n).memWrite (indexed s.i n) (s.reg (BitVec.ofNat 4 n)) := by
      simp [State.storeRegs, List.range_succ]
    rw [e]
    refine ⟨ihs.memWrite _ _, fun hw => ?_, fun k hk => ?_, fun a ha => ?_⟩
    · have hf : (s.storeRegs n).font = s.font := by rw [ihs.rest]
      have := State.wf_memWrite (s := s.storeRegs n) (by rw [hf]; exact ihw hw) (indexed s.i n)
        (s.reg (BitVec.ofNat 4 n))
      simpa [hf] using this
    · rw [State.memRead_memWrite]
      split
      next h => rw [effectiveAddress_inj (by omega) (by omega) h]
      next h => exact ihk k (by
        rcases Nat.lt_succ_iff_lt_or_eq.1 hk with h' | h'
        · exact h'
        · exact absurd (by rw [h']) h)
    · rw [State.memRead_memWrite, if_neg (fun h => ha n (by omega) h.symm)]
      exact iha a fun k hk => ha k (by omega)

/-- FX65's loads: V[k] is the byte at I + k for k < n, every other register and everything else is as before (R131). -/
theorem State.loadRegs_spec (s : State) (n : Nat) (hn : n ≤ 16) :
    s.loadRegs n = { s with v := (s.loadRegs n).v } ∧
    ∀ k : Reg, (s.loadRegs n).reg k = if k.toNat < n then s.memRead (indexed s.i k.toNat) else s.reg k := by
  induction n with
  | zero => exact ⟨rfl, by simp [State.loadRegs]⟩
  | succ n ih =>
    obtain ⟨ihs, ihk⟩ := ih (by omega)
    have e : s.loadRegs (n + 1) = (s.loadRegs n).setReg (BitVec.ofNat 4 n) (s.memRead (indexed s.i n)) := by
      simp [State.loadRegs, List.range_succ]
    rw [e]
    refine ⟨by conv_lhs => rw [ihs]
               rfl, fun k => ?_⟩
    rw [State.reg_setReg, ihk]
    have hk : k = BitVec.ofNat 4 n ↔ k.toNat = n := by
      rw [← BitVec.toNat_inj]; simp [Nat.mod_eq_of_lt (show n < 16 by omega)]
    by_cases h : k.toNat = n
    · rw [if_pos (hk.2 h), if_pos (by omega), h]
    · rw [if_neg (mt hk.1 h)]
      by_cases h' : k.toNat < n
      · rw [if_pos h', if_pos (by omega)]
      · rw [if_neg h', if_neg (by omega)]

/-- A program image placed in memory: only MEM changes; byte k of the image is at addr + k; every other byte is as before
(R175). -/
theorem State.loadBytes_spec (image : List Byte) : ∀ (s : State) (addr : Nat), image.length ≤ 4096 →
    State.SameButMem s (s.loadBytes addr image) ∧
    (Memory.wf s.font s.mem → Memory.wf s.font (s.loadBytes addr image).mem) ∧
    (∀ k (h : k < image.length), (s.loadBytes addr image).memRead (addr + k) = image[k]) ∧
    (∀ a, (∀ k, k < image.length → effectiveAddress (addr + k) ≠ effectiveAddress a) →
      (s.loadBytes addr image).memRead a = s.memRead a) := by
  induction image with
  | nil => exact fun s addr _ => ⟨⟨rfl⟩, id, by simp, fun _ _ => rfl⟩
  | cons b rest ih =>
    intro s addr hlen
    simp only [List.length_cons] at hlen
    obtain ⟨ihs, ihw, ihk, iha⟩ := ih (s.memWrite addr b) (addr + 1) (by omega)
    simp only [State.loadBytes]
    refine ⟨⟨by rw [ihs.rest]; rfl⟩, fun hw => ihw (State.wf_memWrite hw addr b), fun k hk => ?_, fun a ha => ?_⟩
    · cases k with
      | zero =>
        rw [iha _ fun k hk h => ?_]
        · simp
        · have := effectiveAddress_inj (base := addr) (j := 1 + k) (k := 0) (by omega) (by omega)
            (by rw [← Nat.add_assoc]; exact h)
          omega
      | succ k =>
        have hk' : k < rest.length := by simpa using hk
        have := ihk k hk'
        rw [show addr + (k + 1) = addr + 1 + k by omega, this]
        simp
    · rw [iha a fun k hk => ?_, State.memRead_memWrite, if_neg fun h => ha 0 (by simp) h.symm]
      have := ha (k + 1) (by simpa using hk)
      rwa [show addr + (k + 1) = addr + 1 + k by omega] at this

end Sys2Proof.Machine
end

