-- ==== Sys2Proof/Laws/Screen.lean ====
section
/-! SUPPORT. The framebuffer: a pixel after a pixel is written, the size every operation keeps, and the whole effect of a
sprite said once (spec/44_display.md R135 to R138). -/

namespace Sys2Proof.Machine

/-! ### Pixels -/

@[simp] theorem Screen.pixel_blank (w h x y : Nat) : (Screen.blank w h).pixel x y = false := by
  unfold Screen.pixel Screen.blank
  by_cases hy : y < h <;> by_cases hx : x < w <;> simp [hy, hx]

theorem Screen.sized_blank (w h : Nat) : (Screen.blank w h).sized w h := by
  refine ⟨by simp [Screen.blank], fun row hr => ?_⟩
  rw [List.eq_of_mem_replicate hr, List.length_replicate]

theorem Screen.sized_setPixel {fb : Screen} {w h : Nat} (hs : fb.sized w h) (x y : Nat) (b : Bool) :
    (fb.setPixel x y b).sized w h := by
  refine ⟨by simp [Screen.setPixel, hs.1], fun row hr => ?_⟩
  obtain ⟨j, hj, rfl⟩ := List.mem_iff_getElem.1 hr
  have hj' : j < fb.length := by simpa [Screen.setPixel] using hj
  simp only [Screen.setPixel, List.getElem_modify]
  split
  · simpa using hs.2 _ (List.getElem_mem hj')
  · exact hs.2 _ (List.getElem_mem hj')

/-- A cell after a cell of the screen is written (R30). -/
theorem Screen.pixel_setPixel {fb : Screen} {w h : Nat} (hs : fb.sized w h) {x y : Nat} (hx : x < w) (hy : y < h)
    (b : Bool) (px py : Nat) :
    (fb.setPixel x y b).pixel px py = if px = x ∧ py = y then b else fb.pixel px py := by
  have hl : y < fb.length := hs.1 ▸ hy
  have hw : (fb[y]).length = w := hs.2 _ (List.getElem_mem hl)
  by_cases hpy : py = y
  · subst hpy
    by_cases hpx : px = x
    · subst hpx; simp [Screen.pixel, Screen.setPixel, hl, hw, hx]
    · simp [Screen.pixel, Screen.setPixel, hl, Ne.symm hpx, hpx]
  · simp [Screen.pixel, Screen.setPixel, hpy, Ne.symm hpy]

/-! ### A sprite as a list of flipped cells -/

/-- The pixels of a list of cells flipped one after another. -/
def Blit.flips (acc : Blit) (cells : List (Nat × Nat)) : Blit := cells.foldl (fun a d => a.dot d.1 d.2 true) acc

/-- Drawing a sprite flips the cells its 1 bits land on, in order (R136). -/
theorem State.blit_eq_flips (s : State) (vx vy : Byte) (n : Nat) :
    s.blit vx vy n = Blit.flips (s.fb, false) (s.litCells vx vy n) := by
  simp only [State.blit, Blit.flips, State.litCells, List.foldl_flatMap, List.foldl_map, List.foldl_filter,
    Blit.row]
  refine congrArg (fun f => List.foldl f (s.fb, false) (List.range n)) (funext fun a => funext fun r => ?_)
  refine congrArg (fun f => List.foldl f a (List.range 8)) (funext fun a => funext fun c => ?_)
  cases hb : spriteBit (s.memRead (indexed s.i r)) c <;> simp [Blit.dot]

/-- Where a sprite lands when the screen has at least one cell: on the screen (R137). -/
theorem State.litCells_on_screen {s : State} (hw : 0 < s.width) (hh : 0 < s.height) (vx vy : Byte) (n : Nat) :
    ∀ d ∈ s.litCells vx vy n, d.1 < s.width ∧ d.2 < s.height := by
  intro d hd
  simp only [State.litCells, List.mem_flatMap, List.mem_map] at hd
  obtain ⟨r, -, c, -, rfl⟩ := hd
  exact ⟨Nat.mod_lt _ hw, Nat.mod_lt _ hh⟩

/-- What flipping a list of cells of the screen does: the size stays; a cell changes exactly when it is listed an odd
number of times; a collision happens exactly when a listed cell was set, or is listed twice (R136). -/
theorem Blit.flips_spec {w h : Nat} (cells : List (Nat × Nat)) (hc : ∀ d ∈ cells, d.1 < w ∧ d.2 < h) :
    ∀ (fb : Screen) (hit : Bool), fb.sized w h →
      (Blit.flips (fb, hit) cells).1.sized w h ∧
      (∀ x y, (Blit.flips (fb, hit) cells).1.pixel x y = (fb.pixel x y ^^ decide (cells.count (x, y) % 2 = 1))) ∧
      ((Blit.flips (fb, hit) cells).2 = true ↔
        hit = true ∨ ∃ d ∈ cells, fb.pixel d.1 d.2 = true ∨ 2 ≤ cells.count d) := by
  induction cells with
  | nil => intro fb hit hs; exact ⟨hs, by simp [Blit.flips], by simp [Blit.flips]⟩
  | cons d rest ih =>
    intro fb hit hs
    obtain ⟨x, y⟩ := d
    obtain ⟨hx, hy⟩ := hc (x, y) List.mem_cons_self
    have hs' := Screen.sized_setPixel hs x y (!fb.pixel x y)
    obtain ⟨h1, h2, h3⟩ := ih (fun d hd => hc d (List.mem_cons_of_mem _ hd)) (fb.setPixel x y (!fb.pixel x y))
      (hit || fb.pixel x y) hs'
    have e : Blit.flips (fb, hit) ((x, y) :: rest)
        = Blit.flips (fb.setPixel x y (!fb.pixel x y), hit || fb.pixel x y) rest := by
      simp [Blit.flips, Blit.dot]
    rw [e]
    refine ⟨h1, fun px py => ?_, ?_⟩
    · rw [h2, Screen.pixel_setPixel hs hx hy, List.count_cons]
      by_cases hp : px = x ∧ py = y
      · obtain ⟨rfl, rfl⟩ := hp
        have : (rest.count (px, py) + 1) % 2 = 1 ↔ ¬ rest.count (px, py) % 2 = 1 := by omega
        simp only [and_self, if_true, beq_self_eq_true, this, decide_not]
        cases fb.pixel px py <;> cases decide (rest.count (px, py) % 2 = 1) <;> rfl
      · have : ((x, y) == (px, py)) = false := by
          simp only [beq_eq_false_iff_ne, ne_eq, Prod.mk.injEq]; exact fun h => hp ⟨h.1.symm, h.2.symm⟩
        simp [hp, this]
    · rw [h3]
      constructor
      · rintro (h | ⟨d, hd, h⟩)
        · rcases Bool.or_eq_true_iff.1 h with h | h
          · exact .inl h
          · exact .inr ⟨(x, y), List.mem_cons_self, .inl h⟩
        · refine .inr ⟨d, List.mem_cons_of_mem _ hd, ?_⟩
          rw [Screen.pixel_setPixel hs hx hy] at h
          by_cases hp : d.1 = x ∧ d.2 = y
          · have hd' : d = (x, y) := Prod.ext hp.1 hp.2
            subst hd'
            have := List.count_pos_iff.2 hd
            right; simp only [List.count_cons_self]; omega
          · rw [if_neg hp] at h
            refine h.imp_right fun h => h.trans List.count_le_count_cons
      · rintro (h | ⟨d, hd, h⟩)
        · exact .inl (by simp [h])
        · by_cases hp : d = (x, y)
          · subst hp
            rcases h with h | h
            · exact .inl (by simp_all)
            · by_cases hpix : fb.pixel x y = true
              · exact .inl (by simp [hpix])
              · have hm : (x, y) ∈ rest := by
                  rw [List.count_cons_self] at h; exact List.count_pos_iff.1 (by omega)
                exact .inr ⟨(x, y), hm, .inl (by rw [Screen.pixel_setPixel hs hx hy]; simp [hpix])⟩
          · have hm : d ∈ rest := (List.mem_cons.1 hd).resolve_left hp
            have hne : ((x, y) == d) = false := by
              simp only [beq_eq_false_iff_ne]; exact Ne.symm hp
            refine .inr ⟨d, hm, ?_⟩
            rw [Screen.pixel_setPixel hs hx hy, if_neg fun hq => hp (Prod.ext hq.1 hq.2)]
            rw [List.count_cons, hne] at h
            simpa using h

/-- Every sprite keeps the size of a framebuffer of W × H cells (R39). -/
theorem State.sized_blit {s : State} (hs : s.fb.sized s.width s.height) (hr : resSupported s.res = true) (vx vy : Byte)
    (n : Nat) : (s.blit vx vy n).1.sized s.width s.height := by
  simp only [resSupported, Bool.and_eq_true, decide_eq_true_eq] at hr
  rw [State.blit_eq_flips]
  exact (Blit.flips_spec _ (State.litCells_on_screen hr.1 hr.2 vx vy n) s.fb false hs).1

end Sys2Proof.Machine
end

