-- ==== Sys2Proof/Laws/Ops.lean ====
section
/-! SUPPORT. What the shared operations do, said once: flag computations as numbers, the two orders of result and flag, the
call stack, the keys, the step, and what keeps the invariant. -/

namespace Sys2Proof.Machine

/-! ### Widening (R9) -/

@[simp] theorem Addr.toNat_toWord (nnn : Addr) : (Addr.toWord nnn).toNat = nnn.toNat := by
  have := nnn.isLt
  simp only [Addr.toWord, BitVec.toNat_setWidth]
  omega

@[simp] theorem Byte.toNat_toWord (b : Byte) : (Byte.toWord b).toNat = b.toNat := by
  have := b.isLt
  simp only [Byte.toWord, BitVec.toNat_setWidth]
  omega

/-! ### Flags (R22, R123) -/

theorem flagByte_toNat (b : Bool) : (flagByte b).toNat = if b then 1 else 0 := by cases b <;> rfl

@[simp] theorem flagByte_eq_one (b : Bool) : flagByte b = 1 ↔ b = true := by cases b <;> decide

@[simp] theorem flagByte_eq_zero (b : Bool) : flagByte b = 0 ↔ b = false := by cases b <;> decide

theorem flagByte_zero_or_one (b : Bool) : flagByte b = 1 ∨ flagByte b = 0 := by cases b <;> decide

theorem carryFlag_toNat (a b : Byte) : (carryFlag a b).toNat = if a.toNat + b.toNat > 255 then 1 else 0 := by
  simp [carryFlag, flagByte_toNat]

theorem greaterFlag_toNat (a b : Byte) : (greaterFlag a b).toNat = if a.toNat > b.toNat then 1 else 0 := by
  simp [greaterFlag, flagByte_toNat]

theorem lowBitFlag_toNat (a : Byte) : (lowBitFlag a).toNat = a.toNat % 2 := by
  simp only [lowBitFlag, flagByte_toNat, BitVec.getLsbD, Nat.testBit_zero, decide_eq_true_eq]
  split <;> omega

theorem highBitFlag_toNat (a : Byte) : (highBitFlag a).toNat = a.toNat / 128 := by
  have := a.isLt
  simp only [highBitFlag, flagByte_toNat, BitVec.getLsbD, Nat.testBit_eq_decide_div_mod_eq, decide_eq_true_eq]
  split <;> omega

/-! ### Result and flag (R122) -/

/-- 8XY4's order: VF holds the flag whatever X is; the result stands unless X = F. -/
theorem State.reg_resultThenFlag (s : State) (x k : Reg) (r f : Byte) :
    (s.resultThenFlag x r f).reg k = if k = vf then f else if k = x then r else s.reg k := by
  simp [State.resultThenFlag]

/-- The other order: V[X] holds the result whatever X is; the flag stands unless X = F. -/
theorem State.reg_flagThenResult (s : State) (x k : Reg) (f r : Byte) :
    (s.flagThenResult x f r).reg k = if k = x then r else if k = vf then f else s.reg k := by
  simp [State.flagThenResult]

theorem State.resultThenFlag_rest (s : State) (x : Reg) (r f : Byte) :
    s.resultThenFlag x r f = { s with v := (s.resultThenFlag x r f).v } := rfl

theorem State.flagThenResult_rest (s : State) (x : Reg) (f r : Byte) :
    s.flagThenResult x f r = { s with v := (s.flagThenResult x f r).v } := rfl

/-! ### Conditions (R14, R33) -/

theorem Condition.getLsbD_mask (c e : Condition) : c.mask.getLsbD e.code = decide (c = e) := by
  cases c <;> cases e <;> decide

@[simp] theorem State.raised_raiseCondition (s : State) (c e : Condition) :
    (s.raiseCondition c).raised e = (s.raised e || decide (c = e)) := by
  simp only [State.raised, State.raiseCondition_err, BitVec.getLsbD_or, Condition.getLsbD_mask]

/-! ### Keys (R144) -/

theorem State.firstKey_eq_none {s : State} : s.firstKey = none ↔ ∀ k, s.keyDown k = false := by
  simp [State.firstKey, List.find?_eq_none]

theorem State.firstKey_isSome_least {s : State} {k : Fin 16} (hk : s.keyDown k = true)
    (hl : ∀ j, j < k → s.keyDown j = false) : s.firstKey = some k := by
  unfold State.firstKey
  rw [List.find?_eq_some_iff_getElem]
  refine ⟨hk, k.val, by simp, by simp, fun j hj => ?_⟩
  simp only [List.getElem_finRange]
  simpa using hl ⟨j, by omega⟩ hj

/-! ### The step -/

theorem step_of_decode {s : State} {i : Instr} (h : decode s.fetch = .ok i) : step s = exec i s := by
  simp [step, h]

theorem step_of_unknown {s : State} {e : DecodeError} (h : decode s.fetch = .error e) :
    step s = .next (s.raiseCondition .unknownInstruction) := by
  simp [step, h]

/-- The two ways a step reaches a next state (R93, R99). -/
theorem step_cases {s t : State} (h : step s = .next t) :
    (∃ i, decode s.fetch = .ok i ∧ exec i s = .next t) ∨
    (∃ e, decode s.fetch = .error e ∧ t = s.raiseCondition .unknownInstruction) := by
  cases hd : decode s.fetch with
  | ok i => exact .inl ⟨i, rfl, by rwa [step_of_decode hd] at h⟩
  | error e =>
    rw [step_of_unknown hd] at h
    injection h with h
    exact .inr ⟨e, rfl, h.symm⟩

/-- A word stored where the next instruction is fetched is the word fetched, and a step runs what it decodes to. -/
theorem State.fetch_withFetchWord (s : State) (nbits w : Nat) : (s.withFetchWord nbits w).fetch = tableWord nbits w := by
  have hne : ¬ effectiveAddress s.pc.toNat = effectiveAddress (s.pc.toNat + 1) := by
    simp only [effectiveAddress, Config.memSize]; omega
  simp [State.fetch, State.withFetchWord, hne]

/-! ### The invariant -/

/-- What touches neither MEM, FONT, FB nor RES keeps the invariant (R39). -/
theorem State.Inv.of_same {s t : State} (h : s.Inv) (hm : t.mem = s.mem) (hf : t.font = s.font) (hb : t.fb = s.fb)
    (hr : t.res = s.res) : t.Inv := by
  obtain ⟨h1, h2, h3⟩ := h
  refine ⟨by rw [hm, hf]; exact h1, ?_, by rw [hr]; exact h3⟩
  rw [hb]
  simpa [State.width, State.height, hr] using h2

theorem State.Inv.memWrite {s : State} (h : s.Inv) (addr : Nat) (b : Byte) : (s.memWrite addr b).Inv :=
  ⟨State.wf_memWrite h.mem addr b, h.fb, h.res⟩

theorem State.Inv.setFB {s : State} (h : s.Inv) {fb : Screen} (hs : fb.sized s.width s.height) : (s.setFB fb).Inv :=
  ⟨h.mem, hs, h.res⟩

theorem State.Inv.storeRegs {s : State} (h : s.Inv) {n : Nat} (hn : n ≤ 16) : (s.storeRegs n).Inv := by
  obtain ⟨hs, hw, -⟩ := s.storeRegs_spec n hn
  obtain ⟨hs⟩ := hs
  rw [hs]
  exact ⟨hw h.mem, h.fb, h.res⟩

theorem State.Inv.loadBytes {s : State} (h : s.Inv) (addr : Nat) {image : List Byte} (hl : image.length ≤ 4096) :
    (s.loadBytes addr image).Inv := by
  obtain ⟨hs, hw, -⟩ := State.loadBytes_spec image s addr hl
  obtain ⟨hs⟩ := hs
  rw [hs]
  exact ⟨hw h.mem, h.fb, h.res⟩

/-- RESET's cleared state meets the invariant (R36). -/
theorem State.Inv.cleared (font : Font) (draws : Nat) {res : Word} (h : resSupported res = true) :
    (State.cleared font draws res).Inv :=
  ⟨Memory.wf_nil font, Screen.sized_blank _ _, h⟩

end Sys2Proof.Machine
end

