-- ==== Sys2Proof/Laws/PerInstr.lean ====
section
/-! SUPPORT. The statements made of every instruction, one lemma per constructor. -/

namespace Sys2Proof.Laws.OwnRow

/-- The word an instruction is encoded as has the fixed digits of the instruction's own row of R76. -/
def Statement (i : Instr) : Prop := ∃ r ∈ opcodeTable, r.mnemonic = i.mnemonic ∧ r.accepts (encode i) = true

theorem cls : Statement .cls :=
  ⟨⟨"CLS", 0x00E0, 0xFFFF⟩, by decide, rfl, rfl⟩

theorem ret : Statement .ret :=
  ⟨⟨"RET", 0x00EE, 0xFFFF⟩, by decide, rfl, rfl⟩

theorem jpAddr (nnn : Addr) : Statement (.jpAddr nnn) :=
  ⟨⟨"JP_addr", 0x1000, 0xF000⟩, by decide, rfl, beq_iff_eq.2 ((formatA_mask _ _).trans rfl)⟩

theorem callAddr (nnn : Addr) : Statement (.callAddr nnn) :=
  ⟨⟨"CALL_addr", 0x2000, 0xF000⟩, by decide, rfl, beq_iff_eq.2 ((formatA_mask _ _).trans rfl)⟩

theorem seVxByte (x : Reg) (kk : Byte) : Statement (.seVxByte x kk) :=
  ⟨⟨"SE_Vx__byte", 0x3000, 0xF000⟩, by decide, rfl, beq_iff_eq.2 ((formatK_mask _ _ _).trans rfl)⟩

theorem sneVxByte (x : Reg) (kk : Byte) : Statement (.sneVxByte x kk) :=
  ⟨⟨"SNE_Vx__byte", 0x4000, 0xF000⟩, by decide, rfl, beq_iff_eq.2 ((formatK_mask _ _ _).trans rfl)⟩

theorem seVxVy (x : Reg) (y : Reg) : Statement (.seVxVy x y) :=
  ⟨⟨"SE_Vx__Vy", 0x5000, 0xF00F⟩, by decide, rfl, beq_iff_eq.2 ((formatR_mask _ _ _ _).trans rfl)⟩

theorem ldVxByte (x : Reg) (kk : Byte) : Statement (.ldVxByte x kk) :=
  ⟨⟨"LD_Vx__byte", 0x6000, 0xF000⟩, by decide, rfl, beq_iff_eq.2 ((formatK_mask _ _ _).trans rfl)⟩

theorem addVxByte (x : Reg) (kk : Byte) : Statement (.addVxByte x kk) :=
  ⟨⟨"ADD_Vx__byte", 0x7000, 0xF000⟩, by decide, rfl, beq_iff_eq.2 ((formatK_mask _ _ _).trans rfl)⟩

theorem ldVxVy (x : Reg) (y : Reg) : Statement (.ldVxVy x y) :=
  ⟨⟨"LD_Vx__Vy", 0x8000, 0xF00F⟩, by decide, rfl, beq_iff_eq.2 ((formatR_mask _ _ _ _).trans rfl)⟩

theorem orVxVy (x : Reg) (y : Reg) : Statement (.orVxVy x y) :=
  ⟨⟨"OR_Vx__Vy", 0x8001, 0xF00F⟩, by decide, rfl, beq_iff_eq.2 ((formatR_mask _ _ _ _).trans rfl)⟩

theorem andVxVy (x : Reg) (y : Reg) : Statement (.andVxVy x y) :=
  ⟨⟨"AND_Vx__Vy", 0x8002, 0xF00F⟩, by decide, rfl, beq_iff_eq.2 ((formatR_mask _ _ _ _).trans rfl)⟩

theorem xorVxVy (x : Reg) (y : Reg) : Statement (.xorVxVy x y) :=
  ⟨⟨"XOR_Vx__Vy", 0x8003, 0xF00F⟩, by decide, rfl, beq_iff_eq.2 ((formatR_mask _ _ _ _).trans rfl)⟩

theorem addVxVy (x : Reg) (y : Reg) : Statement (.addVxVy x y) :=
  ⟨⟨"ADD_Vx__Vy", 0x8004, 0xF00F⟩, by decide, rfl, beq_iff_eq.2 ((formatR_mask _ _ _ _).trans rfl)⟩

theorem subVxVy (x : Reg) (y : Reg) : Statement (.subVxVy x y) :=
  ⟨⟨"SUB_Vx__Vy", 0x8005, 0xF00F⟩, by decide, rfl, beq_iff_eq.2 ((formatR_mask _ _ _ _).trans rfl)⟩

theorem shrVx (x : Reg) (y : Reg) : Statement (.shrVx x y) :=
  ⟨⟨"SHR_Vx", 0x8006, 0xF00F⟩, by decide, rfl, beq_iff_eq.2 ((formatR_mask _ _ _ _).trans rfl)⟩

theorem subnVxVy (x : Reg) (y : Reg) : Statement (.subnVxVy x y) :=
  ⟨⟨"SUBN_Vx__Vy", 0x8007, 0xF00F⟩, by decide, rfl, beq_iff_eq.2 ((formatR_mask _ _ _ _).trans rfl)⟩

theorem shlVx (x : Reg) (y : Reg) : Statement (.shlVx x y) :=
  ⟨⟨"SHL_Vx", 0x800E, 0xF00F⟩, by decide, rfl, beq_iff_eq.2 ((formatR_mask _ _ _ _).trans rfl)⟩

theorem sneVxVy (x : Reg) (y : Reg) : Statement (.sneVxVy x y) :=
  ⟨⟨"SNE_Vx__Vy", 0x9000, 0xF00F⟩, by decide, rfl, beq_iff_eq.2 ((formatR_mask _ _ _ _).trans rfl)⟩

theorem ldIAddr (nnn : Addr) : Statement (.ldIAddr nnn) :=
  ⟨⟨"LD_I__addr", 0xA000, 0xF000⟩, by decide, rfl, beq_iff_eq.2 ((formatA_mask _ _).trans rfl)⟩

theorem jpV0Addr (nnn : Addr) : Statement (.jpV0Addr nnn) :=
  ⟨⟨"JP_V0__addr", 0xB000, 0xF000⟩, by decide, rfl, beq_iff_eq.2 ((formatA_mask _ _).trans rfl)⟩

theorem rndVxByte (x : Reg) (kk : Byte) : Statement (.rndVxByte x kk) :=
  ⟨⟨"RND_Vx__byte", 0xC000, 0xF000⟩, by decide, rfl, beq_iff_eq.2 ((formatK_mask _ _ _).trans rfl)⟩

theorem drwVxVyNibble (x : Reg) (y : Reg) (n : Nibble) : Statement (.drwVxVyNibble x y n) :=
  ⟨⟨"DRW_Vx__Vy__nibble", 0xD000, 0xF000⟩, by decide, rfl, beq_iff_eq.2 ((formatD_mask _ _ _ _).trans rfl)⟩

theorem skpVx (x : Reg) : Statement (.skpVx x) :=
  ⟨⟨"SKP_Vx", 0xE09E, 0xF0FF⟩, by decide, rfl, beq_iff_eq.2 ((formatS_mask _ _ _).trans rfl)⟩

theorem sknpVx (x : Reg) : Statement (.sknpVx x) :=
  ⟨⟨"SKNP_Vx", 0xE0A1, 0xF0FF⟩, by decide, rfl, beq_iff_eq.2 ((formatS_mask _ _ _).trans rfl)⟩

theorem ldVxDT (x : Reg) : Statement (.ldVxDT x) :=
  ⟨⟨"LD_Vx__DT", 0xF007, 0xF0FF⟩, by decide, rfl, beq_iff_eq.2 ((formatS_mask _ _ _).trans rfl)⟩

theorem ldVxK (x : Reg) : Statement (.ldVxK x) :=
  ⟨⟨"LD_Vx__K", 0xF00A, 0xF0FF⟩, by decide, rfl, beq_iff_eq.2 ((formatS_mask _ _ _).trans rfl)⟩

theorem ldDTVx (x : Reg) : Statement (.ldDTVx x) :=
  ⟨⟨"LD_DT__Vx", 0xF015, 0xF0FF⟩, by decide, rfl, beq_iff_eq.2 ((formatS_mask _ _ _).trans rfl)⟩

theorem ldSTVx (x : Reg) : Statement (.ldSTVx x) :=
  ⟨⟨"LD_ST__Vx", 0xF018, 0xF0FF⟩, by decide, rfl, beq_iff_eq.2 ((formatS_mask _ _ _).trans rfl)⟩

theorem addIVx (x : Reg) : Statement (.addIVx x) :=
  ⟨⟨"ADD_I__Vx", 0xF01E, 0xF0FF⟩, by decide, rfl, beq_iff_eq.2 ((formatS_mask _ _ _).trans rfl)⟩

theorem ldFVx (x : Reg) : Statement (.ldFVx x) :=
  ⟨⟨"LD_F__Vx", 0xF029, 0xF0FF⟩, by decide, rfl, beq_iff_eq.2 ((formatS_mask _ _ _).trans rfl)⟩

theorem ldBVx (x : Reg) : Statement (.ldBVx x) :=
  ⟨⟨"LD_B__Vx", 0xF033, 0xF0FF⟩, by decide, rfl, beq_iff_eq.2 ((formatS_mask _ _ _).trans rfl)⟩

theorem ldMemVx (x : Reg) : Statement (.ldMemVx x) :=
  ⟨⟨"LD__I___Vx", 0xF055, 0xF0FF⟩, by decide, rfl, beq_iff_eq.2 ((formatS_mask _ _ _).trans rfl)⟩

theorem ldVxMem (x : Reg) : Statement (.ldVxMem x) :=
  ⟨⟨"LD_Vx___I", 0xF065, 0xF0FF⟩, by decide, rfl, beq_iff_eq.2 ((formatS_mask _ _ _).trans rfl)⟩

end Sys2Proof.Laws.OwnRow
end

