-- ==== Sys2Proof/Laws/Run.lean ====
section
/-! SUPPORT. Runs of the host interface's machine, taken apart one step at a time, and what the end of a run looks at. -/

namespace Sys2Proof.Machine

theorem core_run_zero (M : Host.Core) (s t : M.State) : M.run 0 s = .next t ↔ s = t := by
  simp [Host.Core.run]

theorem core_run_succ (M : Host.Core) (n : Nat) (s t : M.State) :
    M.run (n + 1) s = .next t ↔ ∃ u, M.step s = .next u ∧ M.run n u = .next t := by
  simp only [Host.Core.run]
  cases h : M.step s <;> simp

/-- A run of no step. -/
theorem run_zero {s t : State} : Sys2Proof.core.run 0 s = .next t ↔ s = t := core_run_zero Sys2Proof.core s t

/-- A run of n + 1 steps is a step and a run of n steps. -/
theorem run_succ {n : Nat} {s t : State} :
    Sys2Proof.core.run (n + 1) s = .next t ↔ ∃ u, step s = .next u ∧ Sys2Proof.core.run n u = .next t :=
  core_run_succ Sys2Proof.core n s t

theorem core_run_add (M : Host.Core) {n : Nat} {s t : M.State} (h : M.run n s = .next t) (m : Nat) :
    M.run (n + m) s = M.run m t := by
  induction n generalizing s with
  | zero => rw [(core_run_zero M s t).1 h, Nat.zero_add]
  | succ n ih =>
    obtain ⟨u, hs, hr⟩ := (core_run_succ M n s t).1 h
    rw [← ih hr, Nat.add_right_comm, Host.Core.run, hs]

/-- A run goes on from where its first n steps led. -/
theorem run_add {n : Nat} {s t : State} (h : Sys2Proof.core.run n s = .next t) (m : Nat) :
    Sys2Proof.core.run (n + m) s = Sys2Proof.core.run m t := core_run_add Sys2Proof.core h m

/-- What it takes for a run to have ended (R181). -/
theorem State.ended_iff {s : State} : s.ended = true ↔ ∃ nnn, decode s.fetch = .ok (.jpAddr nnn) ∧ s.pc = Addr.toWord nnn := by
  constructor
  · intro h
    unfold State.ended at h
    split at h
    · exact ⟨_, ‹_›, by simpa using h⟩
    · cases h
  · rintro ⟨nnn, hd, hp⟩
    simp [State.ended, hd, hp]

/-- TICK and SET_KEY do not touch what `ended` looks at (R163, R167). -/
@[simp] theorem State.ended_tick (s : State) : s.tick.ended = s.ended := rfl

@[simp] theorem State.ended_setKey (s : State) (index : Nat) (pressed : Bool) :
    (s.setKey index pressed).ended = s.ended := by
  unfold State.setKey; split <;> rfl

end Sys2Proof.Machine
end

