-- ==== Sys2Proof/Tests/Slice0.lean ====
section
/-! SUPPORT. The model's own tests: decoding of written-out words, the ill-formed terms the checks refuse, one step per
instruction with results from spec/95_test_vectors.md, and a witness for the hypotheses of every statement that has some. -/

namespace Sys2Proof.Tests

open Sys2Proof.Machine

/-! ### WellFormed: what the checks refuse, and accept -/

/-- R82: a listing's SHR encodes Y = 0. -/
theorem test_assemblable : Instr.assemblable (.shrVx 1 2) = false ∧ Instr.assemblable (.shlVx 1 2) = false ∧
    Instr.assemblable (.shrVx 1 0) = true := by decide

/-- R7: W and H are at least 1. -/
theorem test_resSupported : resSupported 0x0020 = false ∧ resSupported 0x4000 = false ∧ resSupported 0x4030 = true := by
  decide

/-- R176: 3585 bytes are one too many. -/
theorem test_imageFits : imageFits (List.replicate 3585 0xAB) = false ∧ imageFits (List.replicate 3584 0xAB) = true := by
  constructor <;> rw [imageFits, List.length_replicate] <;> decide

/-- R167: a key number is 0 to 15. -/
theorem test_keyNumberOk : keyNumberOk 16 = false ∧ keyNumberOk 15 = true := by decide

/-! ### Decoding -/

/-- R76, the rows of this family; the bits are written from the encoding column of the table. -/
theorem test_decode_control :
    decodeTableWord 16 0b0000000011101110 = some .ret ∧
    decodeTableWord 16 0b0001101010111100 = some (.jpAddr 0xABC) ∧
    decodeTableWord 16 0b0010101010111100 = some (.callAddr 0xABC) ∧
    decodeTableWord 16 0b0011101000010010 = some (.seVxByte 0xA 0x12) ∧
    decodeTableWord 16 0b0100101000010010 = some (.sneVxByte 0xA 0x12) ∧
    decodeTableWord 16 0b0101101010110000 = some (.seVxVy 0xA 0xB) ∧
    decodeTableWord 16 0b1001101010110000 = some (.sneVxVy 0xA 0xB) ∧
    decodeTableWord 16 0b1011101010111100 = some (.jpV0Addr 0xABC) := by decide

/-- R76, the rows of this family; the bits are written from the encoding column of the table. -/
theorem test_decode_alu :
    decodeTableWord 16 0b0110101000010010 = some (.ldVxByte 0xA 0x12) ∧
    decodeTableWord 16 0b0111101000010010 = some (.addVxByte 0xA 0x12) ∧
    decodeTableWord 16 0b1000101010110000 = some (.ldVxVy 0xA 0xB) ∧
    decodeTableWord 16 0b1000101010110001 = some (.orVxVy 0xA 0xB) ∧
    decodeTableWord 16 0b1000101010110010 = some (.andVxVy 0xA 0xB) ∧
    decodeTableWord 16 0b1000101010110011 = some (.xorVxVy 0xA 0xB) ∧
    decodeTableWord 16 0b1000101010110100 = some (.addVxVy 0xA 0xB) ∧
    decodeTableWord 16 0b1000101010110101 = some (.subVxVy 0xA 0xB) ∧
    decodeTableWord 16 0b1000101010110110 = some (.shrVx 0xA 0xB) ∧
    decodeTableWord 16 0b1000101010110111 = some (.subnVxVy 0xA 0xB) ∧
    decodeTableWord 16 0b1000101010111110 = some (.shlVx 0xA 0xB) := by decide

/-- R76, the rows of this family; the bits are written from the encoding column of the table. -/
theorem test_decode_index :
    decodeTableWord 16 0b1010101010111100 = some (.ldIAddr 0xABC) ∧
    decodeTableWord 16 0b1111101000011110 = some (.addIVx 0xA) ∧
    decodeTableWord 16 0b1111101000101001 = some (.ldFVx 0xA) ∧
    decodeTableWord 16 0b1111101000110011 = some (.ldBVx 0xA) ∧
    decodeTableWord 16 0b1111101001010101 = some (.ldMemVx 0xA) ∧
    decodeTableWord 16 0b1111101001100101 = some (.ldVxMem 0xA) := by decide

/-- R76, the rows of this family; the bits are written from the encoding column of the table. -/
theorem test_decode_display :
    decodeTableWord 16 0b0000000011100000 = some .cls ∧
    decodeTableWord 16 0b1101101010110101 = some (.drwVxVyNibble 0xA 0xB 5) := by decide

/-- R76, the rows of this family; the bits are written from the encoding column of the table. -/
theorem test_decode_environment :
    decodeTableWord 16 0b1100101000010010 = some (.rndVxByte 0xA 0x12) ∧
    decodeTableWord 16 0b1110101010011110 = some (.skpVx 0xA) ∧
    decodeTableWord 16 0b1110101010100001 = some (.sknpVx 0xA) ∧
    decodeTableWord 16 0b1111101000000111 = some (.ldVxDT 0xA) ∧
    decodeTableWord 16 0b1111101000001010 = some (.ldVxK 0xA) ∧
    decodeTableWord 16 0b1111101000010101 = some (.ldDTVx 0xA) ∧
    decodeTableWord 16 0b1111101000011000 = some (.ldSTVx 0xA) := by decide

/-- R79: words that differ from a pattern in a fixed digit only. -/
theorem test_decode_unknown : decodeTableWord 16 0x0000 = none ∧ decodeTableWord 16 0x00E1 = none ∧
    decodeTableWord 16 0x9121 = none ∧ decodeTableWord 16 0x8018 = none ∧ decodeTableWord 16 0xE19F = none ∧
    decodeTableWord 16 0xF175 = none := by decide

/-! ### One step -/

/-- The state after one step of the word at PC from a state made from reset; none if the step stops. -/
def after (word : Nat) (start : State → State) : Option State :=
  match step ((start State.reset).withFetchWord 16 word) with
  | .next t => some t
  | .fault _ => none
  | .refused _ => none

/-- V42-1 -/
theorem test_ldVxByte : (after 0x6A55 fun s => s).map (fun t => (t.reg 0xA, t.reg vf, t.pc)) = some (0x55, 0, 0x0202) := by decide

/-- V42-2 -/
theorem test_ldVxByte_vf : (after 0x6F07 fun s => s).map (fun t => t.reg vf) = some 0x07 := by decide

/-- V42-3 -/
theorem test_addVxByte_wraps : (after 0x7002 fun s => (s.setReg 0 0xFF)).map (fun t => (t.reg 0, t.reg vf)) = some (0x01, 0) := by decide

/-- V42-5 -/
theorem test_addVxByte_vf : (after 0x7FFF fun s => (s.setReg vf 0x01)).map (fun t => t.reg vf) = some 0x00 := by decide

/-- V42-6 -/
theorem test_ldVxVy : (after 0x8010 fun s => ((s.setReg 0 1).setReg 1 0x37)).map (fun t => (t.reg 0, t.reg 1)) = some (0x37, 0x37) := by decide

/-- V42-7 -/
theorem test_orVxVy : (after 0x8011 fun s => (((s.setReg 0 0xF0).setReg 1 0x0F).setReg vf 1)).map (fun t => (t.reg 0, t.reg vf)) = some (0xFF, 1) := by decide

/-- V42-8 -/
theorem test_andVxVy : (after 0x8012 fun s => (((s.setReg 0 0xF0).setReg 1 0x3C).setReg vf 1)).map (fun t => (t.reg 0, t.reg vf)) = some (0x30, 1) := by decide

/-- V42-9 -/
theorem test_xorVxVy : (after 0x8013 fun s => (((s.setReg 0 0xF0).setReg 1 0x3C).setReg vf 1)).map (fun t => (t.reg 0, t.reg vf)) = some (0xCC, 1) := by decide

/-- V42-32 -/
theorem test_addVxVy_carry : (after 0x80F4 fun s => ((s.setReg 0 0xFF).setReg vf 0x01)).map (fun t => (t.reg 0, t.reg vf)) = some (0x00, 1) := by decide

/-- V42-41 -/
theorem test_addVxVy_vf : (after 0x8F14 fun s => ((s.setReg vf 0x10).setReg 1 0x02)).map (fun t => t.reg vf) = some 0x00 := by decide

/-- V42-18 -/
theorem test_subVxVy_equal : (after 0x8015 fun s => (((s.setReg 0 5).setReg 1 5).setReg vf 1)).map (fun t => (t.reg 0, t.reg vf)) = some (0, 0) := by decide

/-- V42-42 -/
theorem test_subVxVy_vf : (after 0x8F15 fun s => ((s.setReg vf 0x10).setReg 1 0x02)).map (fun t => t.reg vf) = some 0x0E := by decide

/-- V42-26 -/
theorem test_shrVx : (after 0x8016 fun s => (s.setReg 0 0xFF)).map (fun t => (t.reg 0, t.reg 1, t.reg vf)) = some (0x7F, 0, 1) := by decide

/-- V40-14 -/
theorem test_shrVx_ignores_y : (after 0x8AB6 fun s => ((s.setReg 0xA 5).setReg 0xB 0x77)).map (fun t => (t.reg 0xA, t.reg vf)) = some (2, 1) := by decide

/-- V42-22 -/
theorem test_subnVxVy : (after 0x8017 fun s => ((s.setReg 0 3).setReg 1 10)).map (fun t => (t.reg 0, t.reg vf)) = some (7, 1) := by decide

/-- V42-25 -/
theorem test_subnVxVy_borrow : (after 0x8017 fun s => ((s.setReg 0 0xFF).setReg 1 0)).map (fun t => (t.reg 0, t.reg vf)) = some (0x01, 0) := by decide

/-- V42-30 -/
theorem test_shlVx : (after 0x801E fun s => (s.setReg 0 0xFF)).map (fun t => (t.reg 0, t.reg vf)) = some (0xFE, 1) := by decide

/-- V42-46 -/
theorem test_shlVx_vf : (after 0x8F0E fun s => (s.setReg vf 0x81)).map (fun t => t.reg vf) = some 0x02 := by decide

/-- V41-1 -/
theorem test_jpAddr : (after 0x1ABC fun s => s).map (fun t => (t.pc, t.sp)) = some (0x0ABC, 0) := by decide

/-- V41-3 -/
theorem test_callAddr : (after 0x2ABC fun s => s).map (fun t => (t.pc, t.sp, t.stack[0])) = some (0x0ABC, 1, 0x0202) := by decide

/-- V41-5 -/
theorem test_callAddr_full : (after 0x2ABC fun s => { s with sp := 16 }).map (fun t => (t.pc, t.sp, t.err)) = some (0x0202, 16, 0b010) := by decide

/-- V41-6 -/
theorem test_ret : (after 0x00EE fun s => { s with sp := 1, stack := s.stack.set 0 0x0ABC }).map (fun t => (t.pc, t.sp, t.stack[0])) = some (0x0ABC, 0, 0x0ABC) := by decide

/-- V41-7 -/
theorem test_ret_empty : (after 0x00EE fun s => s).map (fun t => (t.pc, t.sp, t.err)) = some (0x0202, 0, 0b100) := by decide

/-- V41-20 -/
theorem test_seVxByte : (after 0x3000 fun s => { s with pc := 0xFFFE }).map (fun t => t.pc) = some 0x0002 := by decide

/-- V41-10 -/
theorem test_seVxByte_no_skip : (after 0x3AFF fun s => (s.setReg 0xA 0xFE)).map (fun t => t.pc) = some 0x0202 := by decide

/-- V41-11 -/
theorem test_sneVxByte : (after 0x4A00 fun s => s).map (fun t => t.pc) = some 0x0202 := by decide

/-- V41-12 -/
theorem test_sneVxByte_skip : (after 0x4AFF fun s => (s.setReg 0xA 0xFE)).map (fun t => t.pc) = some 0x0204 := by decide

/-- V41-14 -/
theorem test_seVxVy : (after 0x5AB0 fun s => ((s.setReg 0xA 1).setReg 0xB 2)).map (fun t => t.pc) = some 0x0202 := by decide

/-- V41-16 -/
theorem test_sneVxVy : (after 0x9AB0 fun s => ((s.setReg 0xA 1).setReg 0xB 2)).map (fun t => t.pc) = some 0x0204 := by decide

/-- V41-18 -/
theorem test_jpV0Addr : (after 0xBFFF fun s => (s.setReg 0 0xFF)).map (fun t => t.pc) = some 0x10FE := by decide

/-- V41-19 -/
theorem test_jpV0Addr_not_vx : (after 0xB123 fun s => (s.setReg 1 0x50)).map (fun t => t.pc) = some 0x0123 := by decide

/-- V43-1 -/
theorem test_ldIAddr : (after 0xAFFF fun s => s).map (fun t => t.i) = some 0x0FFF := by decide

/-- V43-3 -/
theorem test_addIVx : (after 0xF11E fun s => ((s.setI 0x0FFF).setReg 1 1)).map (fun t => (t.i, t.reg vf)) = some (0x1000, 0) := by decide

/-- V43-4 -/
theorem test_addIVx_wraps : (after 0xF11E fun s => (s.setI 0xFFFF).setReg 1 1).map (fun t => t.i) = some 0x0000 := by decide

/-- V43-8 -/
theorem test_ldFVx : (after 0xF029 fun s => s.setReg 0 0xFF).map (fun t => t.i) = some 0x04FB := by decide

/-- V43-13 -/
theorem test_ldBVx : (after 0xF033 fun s => (s.setI 0x0FFE).setReg 0 123).map (fun t => (t.memRead 0xFFE, t.memRead 0xFFF, t.memRead 0x000, t.i)) = some (1, 2, 3, 0x0FFE) := by decide

/-- V43-14 -/
theorem test_ldMemVx : (after 0xF255 fun s => (((s.setI 0x0400).setReg 0 0x11).setReg 1 0x22).setReg 2 0x33).map (fun t => (t.memRead 0x400, t.memRead 0x402, t.memRead 0x403, t.i)) = some (0x11, 0x33, 0, 0x0400) := by decide

/-- V43-19 -/
theorem test_ldVxMem : (after 0xF165 fun s => (s.setI 0x0FFF).memWrite 0xFFF 0x5A).map (fun t => (t.reg 0, t.reg 1, t.reg 2)) = some (0x5A, 0xF0, 0) := by decide

/-- R52: MEM[0x1200 mod 4096] is the first byte of the instruction itself -/
theorem test_ldVxMem_wraps : (after 0xF065 fun s => s.setI 0x1200).map (fun t => t.reg 0) = some 0xF0 := by decide

/-- V44-13 -/
theorem test_cls : (after 0x00E0 fun s => (s.setFB (s.fb.setPixel 3 4 true)).setReg vf 1).map (fun t => (t.pixel 3 4, t.reg vf)) = some (false, 1) := by decide

/-- V44-7 -/
theorem test_drw_wraps_in_x : (after 0xD011 fun s => ((s.setI 0x0300).memWrite 0x300 0xFF).setReg 0 62).map (fun t => (t.pixel 61 0, t.pixel 62 0, t.pixel 0 0, t.pixel 5 0, t.pixel 6 0, t.reg vf)) = some (false, true, true, true, false, 0) := by decide

/-- V44-15 -/
theorem test_drw_collision_stands : (after 0xD012 fun s => (((s.setI 0x0300).memWrite 0x300 0x80).memWrite 0x301 0x80).setFB (s.fb.setPixel 0 0 true)).map (fun t => (t.pixel 0 0, t.pixel 0 1, t.reg vf)) = some (false, true, 1) := by decide

/-- V45-8 -/
theorem test_skpVx : (after 0xE29E fun s => (s.setKey 5 true).setReg 2 0x15).map (fun t => t.pc) = some 0x0204 := by decide

/-- V45-5 -/
theorem test_skpVx_released : (after 0xE29E fun s => s.setReg 2 5).map (fun t => t.pc) = some 0x0202 := by decide

/-- V45-6 -/
theorem test_sknpVx : (after 0xE2A1 fun s => s.setReg 2 5).map (fun t => t.pc) = some 0x0204 := by decide

/-- V45-13 -/
theorem test_ldVxDT : (after 0xF207 fun s => s.setDT 6).map (fun t => (t.reg 2, t.dt)) = some (6, 6) := by decide

/-- V45-9 -/
theorem test_ldVxK_waits : (after 0xF10A fun s => s.setReg 1 0x33).map (fun t => (t.pc, t.reg 1)) = some (0x0200, 0x33) := by decide

/-- V45-11 -/
theorem test_ldVxK_least : (after 0xF10A fun s => (s.setKey 9 true).setKey 3 true).map (fun t => (t.pc, t.reg 1)) = some (0x0202, 3) := by decide

/-- V45-14 -/
theorem test_ldDTVx : (after 0xF115 fun s => s.setReg 1 7).map (fun t => (t.dt, t.st)) = some (7, 0) := by decide

/-- V45-15 -/
theorem test_ldSTVx : (after 0xF118 fun s => s.setReg 1 3).map (fun t => (t.st, t.sound, t.dt)) = some (3, true, 0) := by decide

/-- V40-4 -/
theorem test_unknown_word : (after 0x5011 fun s => (s.setReg 0 7).setReg 1 7).map (fun t => (t.pc, t.err)) = some (0x0202, 0b001) := by decide

/-- V40-10 -/
theorem test_fetch_wraps : (after 0x12F0 fun s => { s with pc := 0x0FFF }).map (fun t => t.pc) = some 0x02F0 := by decide

/-- V45-1: STEP 0xC30F with rnd = 0xA7. -/
theorem test_rndVxByte : (match stepWith 0xA7 (State.reset.withFetchWord 16 0xC30F) with
    | .next t => some (t.reg 3, t.pc) | _ => none) = some (0x07, 0x0202) := by decide

/-- V45-2: the mask 0 gives 0 whatever the byte is. -/
theorem test_rndVxByte_zero : (after 0xC300 fun s => s.setReg 3 0x55).map (fun t => t.reg 3) = some 0 := by
  simp [after, step, State.fetch_withFetchWord, show decode (tableWord 16 0xC300) = .ok (.rndVxByte 3 0) by decide, exec,
    execRndVxByte]

/-! ### The host's operations -/

/-- V45-17. -/
theorem test_tick : ((State.reset.setDT 7).setST 1).tick = (State.reset.setDT 6).setST 0 := rfl

/-- V45-20 and V45-22. -/
theorem test_setKey : ((State.reset.setKey 4 true).keyDown 4, (State.reset.setKey 16 true).key = State.reset.key)
    = (true, True) := by
  simp [State.setKey, State.keyDown, State.reset, State.cleared]

/-- V70-2. -/
theorem test_reset : (match reset defaultFont 0 0x4030 [0x12, 0x00] with
    | .next t => some (t.memRead 0x200, t.memRead 0x201, t.memRead 0, t.fb.length, t.pc)
    | _ => none) = some (0x12, 0x00, 0xF0, 48, 0x0200) := by decide

/-- V70-6: the first STEP after RESET with no bytes fetches 0x0000. -/
theorem test_first_step : (match step State.reset with | .next t => some (t.err, t.pc) | _ => none)
    = some (0b001, 0x0202) := by decide

/-- R181: 0x1200 at 0x200 jumps to itself; 0x1202 there does not, nor does 0x1200 fetched at PC = 0x1200. -/
theorem test_ended : (State.reset.withFetchWord 16 0x1200).ended = true ∧ (State.reset.withFetchWord 16 0x1202).ended = false ∧
    ({ State.reset.withFetchWord 16 0x1200 with pc := 0x1200 } : State).ended = false ∧ State.reset.ended = false := by decide

/-- R27, R127: the glyph of F stands at 5 × 15; the bytes are the default's (log entry 3). -/
theorem test_font : (State.reset.memRead 75, State.reset.memRead 79, State.reset.memRead 80) = (0xF0, 0x80, 0) := by decide

/-! ### Witnesses: a state and operands that meet all hypotheses of a statement together, for each of its clauses. The
name after `witness_` is the statement's, with the number of the clause where it has several. -/

/-- The state after reset with one instruction word at PC. -/
def facing (word : Nat) : State := State.reset.withFetchWord 16 word

/-- A 64 × 48 machine with a sprite of two rows at 0x300, I on it, V1 = 63 and V2 = 47, so that it wraps both ways. -/
def canvas : State :=
  (((((State.cleared defaultFont 0 0x4030).memWrite 0x300 0xC0).memWrite 0x301 0x80).setI 0x300).setReg 1 63).setReg 2 47

theorem canvas_inv : canvas.Inv :=
  (((State.Inv.cleared defaultFont 0 (by decide)).memWrite 0x300 0xC0).memWrite 0x301 0x80).of_same rfl rfl rfl rfl

/-- The same machine with the cell the sprite's first bit lands on set. -/
def inked : State := canvas.setFB (canvas.fb.setPixel 63 47 true)

theorem inked_inv : inked.Inv := canvas_inv.setFB (Screen.sized_setPixel canvas_inv.fb 63 47 true)

/-- The smallest screen, one cell, with the same sprite: two bits land on one cell. -/
def tiny : State :=
  ((State.cleared defaultFont 0 0x0101).memWrite 0x300 0xC0).setI 0x300

theorem tiny_inv : tiny.Inv := ((State.Inv.cleared defaultFont 0 (by decide)).memWrite 0x300 0xC0).of_same rfl rfl rfl rfl

theorem witness_EncodeOfDecodeIsTheWord : decode 0xFF65 = .ok (.ldVxMem 0xF) ∧ decode 0x8AB6 = .ok (.shrVx 0xA 0xB) := by
  decide

theorem witness_DecoderFollowsTheOpcodeTable : decode 0x00E0 = .ok .cls ∧
    ∃ r ∈ opcodeTable, r.accepts 0xFF65 = true := by decide

theorem witness_OpcodeRowsNeverOverlap : ∃ r ∈ opcodeTable, ∃ q ∈ opcodeTable,
    r.accepts 0x5AB0 = true ∧ q.accepts 0x5AB0 = true := by decide

theorem witness_StepRunsTheDecodedInstruction :
    decodeBytes ((facing 0x8AB4).memRead (facing 0x8AB4).pc.toNat) ((facing 0x8AB4).memRead ((facing 0x8AB4).pc.toNat + 1))
      = .ok (.addVxVy 0xA 0xB) := by decide

theorem witness_UnknownWordSetsUnkAndAdvances :
    decodeBytes ((facing 0x5011).memRead (facing 0x5011).pc.toNat) ((facing 0x5011).memRead ((facing 0x5011).pc.toNat + 1))
      = .error (.unknownInstruction 0x5011) := by decide

theorem witness_PcAfterEveryInstruction_1 : ∃ t, exec (.jpAddr 0xFFF) State.reset = .next t := ⟨_, rfl⟩

theorem witness_PcAfterEveryInstruction_2 : decode (facing 0x00E1).fetch = .error (.unknownInstruction 0x00E1) ∧
    ∃ t, step (facing 0x00E1) = .next t := ⟨by decide, _, rfl⟩

theorem witness_OnlyRndLooksAtTheRandomByte : ∀ x kk, decode (facing 0x1200).fetch ≠ .ok (.rndVxByte x kk) := by
  rw [show decode (facing 0x1200).fetch = .ok (.jpAddr 0x200) by decide]; simp

theorem witness_StepLeavesTimersAndKeysAlone : (∃ t, step (facing 0x6A55) = .next t) ∧
    (∀ x, decode (facing 0x6A55).fetch ≠ .ok (.ldDTVx x)) ∧ ∀ x, decode (facing 0x6A55).fetch ≠ .ok (.ldSTVx x) := by
  rw [show decode (facing 0x6A55).fetch = .ok (.ldVxByte 0xA 0x55) by decide]
  exact ⟨⟨_, rfl⟩, by simp, by simp⟩

theorem witness_AccessMatrixIsTheFrame : (∃ t, exec (.drwVxVyNibble 1 2 2) canvas = .next t) ∧
    Part.memory ∉ writtenParts (.drwVxVyNibble 1 2 2) ∧ ¬ writesReg (.drwVxVyNibble 1 2 2) 0xE := by
  refine ⟨⟨_, rfl⟩, by decide, ?_⟩
  simp [writesReg, vf]

/-- One state for each condition that meets its cause. -/
theorem witness_ErrBitsAreStickyWithOneCauseEach :
    (causes .unknownInstruction (facing 0x0000) ∧ ∃ t, step (facing 0x0000) = .next t) ∧
    (causes .stackOverflow { facing 0x2ABC with sp := 16 } ∧ ∃ t, step { facing 0x2ABC with sp := 16 } = .next t) ∧
    (causes .stackUnderflow (facing 0x00EE) ∧ ∃ t, step (facing 0x00EE) = .next t) :=
  ⟨⟨⟨_, rfl⟩, _, rfl⟩, ⟨⟨_, rfl, rfl⟩, _, rfl⟩, ⟨rfl, rfl⟩, _, rfl⟩

theorem witness_ErrIsNeverRead : ∃ t, step (facing 0x00EE) = .next t := ⟨_, rfl⟩

theorem witness_ErrZeroAtTheEndMeansASafeRun : ∃ t, Sys2Proof.core.run 2 (facing 0x1200) = .next t ∧ t.noError :=
  ⟨_, rfl, rfl⟩

theorem witness_StepKeepsTheInvariant : inked.Inv ∧ ∃ t, step inked = .next t := ⟨inked_inv, _, rfl⟩

theorem witness_HostOperationsKeepTheInvariant : Session.Inv ⟨defaultFont, none⟩ ∧ Session.Inv ⟨defaultFont, some inked⟩ := by
  constructor
  · intro s h; simp at h
  · intro s h; obtain rfl := Option.some.inj h; exact ⟨inked_inv, rfl⟩

theorem witness_SessionConstantsStayAndErrOnlyGrows :
    (∀ op ∈ [HostOp.step 7, .tick, .setKey 15 true], ∀ res image, op ≠ .reset res image) ∧
    (Session.mk defaultFont (some canvas)).state = some canvas := by
  constructor
  · intro op h; fin_cases h <;> simp
  · rfl

theorem witness_EqualReadsMeanEqualMemories : Memory.wf defaultFont [(0x050, 0x01), (0xFFF, 0x12)] := by decide

theorem witness_NextFetchSeesTheStore :
    ∃ t, exec (.ldMemVx 0xF) (State.reset.setI 0x1F4) = .next t ∧ 14 + 1 ≤ (0xF : Reg).toNat ∧
      effectiveAddress t.pc.toNat = effectiveAddress (indexed (State.reset.setI 0x1F4).i 14) := ⟨_, rfl, by decide, by decide⟩

theorem witness_ReturnPopsOrUnderflows : State.reset.sp.val = 0 ∧
    ({ State.reset with sp := 1 } : State).sp.val = 0 + 1 ∧ ({ State.reset with sp := 16 } : State).sp.val = 15 + 1 := by
  decide

theorem witness_CallPushesOrOverflows : ({ State.reset with sp := 16 } : State).sp.val = 16 ∧
    ({ State.reset with sp := 15 } : State).sp.val < 16 ∧ State.reset.sp.val < 16 := by decide

theorem witness_CallThenReturnComesBack : ({ State.reset with sp := 15 } : State).sp.val < 16 ∧
    ∃ t, exec (.callAddr 0xABC) { State.reset with sp := 15 } = .next t := ⟨by decide, _, rfl⟩

theorem witness_SelfJumpChangesNothing : decode (facing 0x1200).fetch = .ok (.jpAddr 0x200) ∧
    (facing 0x1200).pc.toNat = (0x200 : Addr).toNat := by decide

/-- The hypothesis of the flag and result clauses of 8XY4 to 8XYE. -/
theorem witness_AddSetsTheCarry : (0xE : Reg) ≠ vf := by decide

theorem witness_SubtractionsSetTheStrictComparison : (0 : Reg) ≠ vf := by decide

theorem witness_ShiftsIgnoreTheSecondRegister : (0xA : Reg) ≠ vf := by decide

theorem witness_BcdStoresTheDecimalDigits :
    ∀ k < 3, effectiveAddress 0x001 ≠ effectiveAddress (indexed (State.reset.setI 0xFFE).i k) := by decide

theorem witness_StoreRegistersFromIUp : (0xF : Reg) ≤ 0xF ∧
    ∀ k : Reg, k ≤ 0 → effectiveAddress 0x000 ≠ effectiveAddress (indexed (State.reset.setI 0xFFF).i k.toNat) := by decide

theorem witness_LoadRegistersFromIUp : (0 : Reg) ≤ 0 ∧ (0xF : Reg) ≤ 0xF := by decide

theorem witness_StoreThenLoadBringsTheRegistersBack : ∃ t, exec (.ldMemVx 0xF) canvas = .next t ∧
    (t.setReg 0 0x99).mem = t.mem ∧ (t.setReg 0 0x99).font = t.font ∧ (t.setReg 0 0x99).i = t.i :=
  ⟨_, rfl, by simp, by simp, by simp⟩

/-- Screens of 64 × 48 cells and of one cell; a collision, and two bits on one cell. -/
theorem witness_DrawFlipsTheLitCells : inked.Inv ∧ tiny.Inv ∧
    (∃ d ∈ inked.litCells (inked.reg 1) (inked.reg 2) (2 : Nibble).toNat, inked.pixel d.1 d.2 = true) ∧
    ∃ d ∈ tiny.litCells (tiny.reg 0) (tiny.reg 0) (1 : Nibble).toNat,
      2 ≤ (tiny.litCells (tiny.reg 0) (tiny.reg 0) (1 : Nibble).toNat).count d :=
  ⟨inked_inv, tiny_inv, by decide, by decide⟩

theorem witness_DrawOnAClearScreenShowsTheSprite : inked.Inv ∧ 8 ≤ inked.width ∧ (2 : Nibble).toNat ≤ inked.height ∧
    ∃ t u, exec .cls inked = .next t ∧ exec (.drwVxVyNibble 1 2 2) t = .next u :=
  ⟨inked_inv, by decide, by decide, _, _, rfl, rfl⟩

theorem witness_DrawTwiceRestoresTheScreen : inked.Inv ∧ 8 ≤ inked.width ∧ (2 : Nibble).toNat ≤ inked.height ∧
    (1 : Reg) ≠ vf ∧ (2 : Reg) ≠ vf ∧
    ∃ t u, exec (.drwVxVyNibble 1 2 2) inked = .next t ∧ exec (.drwVxVyNibble 1 2 2) t = .next u :=
  ⟨inked_inv, by decide, by decide, by decide, by decide, _, _, rfl, rfl⟩

theorem witness_DrawChangesAsManyCellsAsBits : inked.Inv ∧ 8 ≤ inked.width ∧ (0xF : Nibble).toNat ≤ inked.height ∧
    ∃ t, exec (.drwVxVyNibble 1 2 0xF) inked = .next t := ⟨inked_inv, by decide, by decide, _, rfl⟩

theorem witness_DisplayIsRowByRow : canvas.Inv ∧ 63 < canvas.width ∧ 47 < canvas.height := ⟨canvas_inv, by decide, by decide⟩

theorem witness_RandomByteIsMasked : decode (facing 0xC30F).fetch = .ok (.rndVxByte 3 0x0F) := by decide

theorem witness_KeySkipsTestTheLevel : (15 : Fin 16).val = ((State.reset.setReg 2 0xFF).reg 2).toNat % 16 ∧
    (0 : Fin 16).val = (State.reset.reg 2).toNat % 16 := by decide

theorem witness_KeyWaitTakesTheLeastPressedKey : (∀ k : Fin 16, State.reset.key[k] = false) ∧
    ((State.reset.setKey 15 true).key[(15 : Fin 16)] = true ∧
      ∀ j : Fin 16, j < 15 → (State.reset.setKey 15 true).key[j] = false) ∧
    (State.reset.setKey 0 true).key[(0 : Fin 16)] = true ∧
      ∀ j : Fin 16, j < 0 → (State.reset.setKey 0 true).key[j] = false := by decide

theorem witness_TicksCountDownToZero : (Session.mk defaultFont (some canvas)).state = some canvas := rfl

theorem witness_SetKeyChangesOneFlag : (Session.mk defaultFont (some canvas)).state = some canvas := rfl

/-- A longest image, at the smallest screen. -/
theorem witness_ResetGivesTheResetTable : resSupported 0x0101 = true ∧ (List.replicate 3584 (0xAB : Byte)).length ≤ 3584 := by
  rw [List.length_replicate]; decide

theorem witness_ResetChecksTheImageSize : resSupported 0xFFFF = true ∧ (List.replicate 3584 (0xAB : Byte)).length ≤ 3584 ∧
    3584 < (List.replicate 3585 (0xAB : Byte)).length := by
  rw [List.length_replicate, List.length_replicate]; decide

theorem witness_NothingButResetBeforeReset : (Session.mk defaultFont none).state = none ∧
    ∀ res image, HostOp.step 0xA7 ≠ .reset res image := by simp

theorem witness_EndedRunStaysEnded : (facing 0x1200).ended = true ∧
    (∀ op ∈ [HostOp.step 7, .tick, .setKey 15 true], ∀ res image, op ≠ .reset res image) ∧
    (Session.mk defaultFont (some (facing 0x1200))).state = some (facing 0x1200) := by
  refine ⟨by decide, ?_, rfl⟩
  intro op h; fin_cases h <;> simp

/-- 0x6A55 and then a jump to itself at 0x202. -/
def finishing : State := ((facing 0x6A55).memWrite 0x202 0x12).memWrite 0x203 0x02

/-- Ended after one step, and after two. -/
theorem witness_RunEndsInOneState : ∃ t u, runEnds 1 finishing t ∧ runEnds 2 finishing u :=
  ⟨_, _, ⟨rfl, by decide⟩, ⟨rfl, by decide⟩⟩

end Sys2Proof.Tests
end

/-! ## Scope: MemRead and MemWrite (R12) -/
section
namespace Sys2Proof.Machine

/-- The reduction of R52 with the memory size written out, the form in which the statements speak of addresses. -/
theorem effectiveAddress_eq_mod (addr : Nat) : effectiveAddress addr = addr % 4096 := rfl

/-- Settles O22: the write-then-read law of memory, with each effective address read as the remainder modulo 4096. -/
theorem readAfterWrite : Obligations.ReadAfterWrite := by
  intro s a b v
  rw [State.memRead_memWrite, effectiveAddress_eq_mod, effectiveAddress_eq_mod]

end Sys2Proof.Machine
end

/-! ## State: the frame of every instruction (R38) -/
section
namespace Sys2Proof.Machine

/-! ### The instructions whose meaning has two cases: an equation per case, and which cases there are -/

theorem exec_ret_of_zero {s : State} (h : s.sp.val = 0) : exec .ret s = .next (s.raiseCondition .stackUnderflow) :=
  dif_pos h

theorem exec_ret_of_succ {s : State} {n : Nat} (h : s.sp.val = n + 1) (hn : n < 16) :
    exec .ret s = .next (s.popTo n hn) := by
  simp [exec, execRet, h]

/-- 00EE: underflow at SP = 0, else the return to the address on top of the stack (R101). -/
theorem exec_ret_cases {s t : State} (h : exec .ret s = .next t) :
    (s.sp.val = 0 ∧ t = s.raiseCondition .stackUnderflow) ∨
    ∃ (n : Nat) (hn : n < 16), s.sp.val = n + 1 ∧ t = s.popTo n hn := by
  cases hs : s.sp.val with
  | zero => exact .inl ⟨rfl, Host.Outcome.next.inj (h.symm.trans (exec_ret_of_zero hs))⟩
  | succ n =>
    have hn : n < 16 := by omega
    exact .inr ⟨n, hn, rfl, Host.Outcome.next.inj (h.symm.trans (exec_ret_of_succ hs hn))⟩

theorem exec_callAddr_of_full {nnn : Addr} {s : State} (h : s.sp.val = 16) :
    exec (.callAddr nnn) s = .next (s.raiseCondition .stackOverflow) :=
  dif_neg (by omega)

theorem exec_callAddr_of_lt {nnn : Addr} {s : State} (h : s.sp.val < 16) :
    exec (.callAddr nnn) s = .next ((s.push (s.pc + 2) h).jump (Addr.toWord nnn)) :=
  dif_pos h

/-- 2NNN: overflow at SP = 16, else the push and the jump (R102). -/
theorem exec_callAddr_cases {nnn : Addr} {s t : State} (h : exec (.callAddr nnn) s = .next t) :
    (s.sp.val = 16 ∧ t = s.raiseCondition .stackOverflow) ∨
    ∃ hs : s.sp.val < 16, t = (s.push (s.pc + 2) hs).jump (Addr.toWord nnn) := by
  by_cases hs : s.sp.val < 16
  · exact .inr ⟨hs, Host.Outcome.next.inj (h.symm.trans (exec_callAddr_of_lt hs))⟩
  · have h16 : s.sp.val = 16 := by omega
    exact .inl ⟨h16, Host.Outcome.next.inj (h.symm.trans (exec_callAddr_of_full h16))⟩

theorem exec_ldVxK_of_none {x : Reg} {s : State} (h : s.firstKey = none) : exec (.ldVxK x) s = .next s := by
  simp [exec, execLdVxK, h]

theorem exec_ldVxK_of_some {x : Reg} {s : State} {k : Fin 16} (h : s.firstKey = some k) :
    exec (.ldVxK x) s = .next (s.setReg x (BitVec.ofNat 8 k.val)).advance := by
  simp [exec, execLdVxK, h]

/-- FX0A: the state as it was while no key is pressed, else the least pressed key to V[X] (R144). -/
theorem exec_ldVxK_cases {x : Reg} {s t : State} (h : exec (.ldVxK x) s = .next t) :
    (s.firstKey = none ∧ t = s) ∨
    ∃ k, s.firstKey = some k ∧ t = (s.setReg x (BitVec.ofNat 8 k.val)).advance := by
  cases hk : s.firstKey with
  | none => exact .inl ⟨rfl, Host.Outcome.next.inj (h.symm.trans (exec_ldVxK_of_none hk))⟩
  | some k => exact .inr ⟨k, rfl, Host.Outcome.next.inj (h.symm.trans (exec_ldVxK_of_some hk))⟩

/-! ### The frame (R38) -/

/-- `Part.same`, but for memory: the same canonical list, and not only the same byte at every address. -/
def Part.kept (p : Part) (s t : State) : Prop :=
  match p with
  | .memory => t.mem = s.mem
  | p => p.same s t

/-- `Framed` with every piece of state compared as data: what the access matrix does not give `i` is the same in `t` as
in `s`. -/
structure StrictlyFramed (i : Instr) (s t : State) : Prop where
  parts : ∀ p : Part, p ∉ writtenParts i → p.kept s t
  regs : ∀ k : Reg, ¬ writesReg i k → t.reg k = s.reg k

theorem font_not_written (i : Instr) : Part.font ∉ writtenParts i := by
  unfold writtenParts; split <;> decide

theorem resolution_not_written (i : Instr) : Part.resolution ∉ writtenParts i := by
  unfold writtenParts; split <;> decide

namespace StrictlyFramed

variable {i : Instr} {s t : State}

/-- The frame the obligations speak of. -/
theorem framed (h : StrictlyFramed i s t) : Framed i s t := by
  refine ⟨fun p hp => ?_, h.regs⟩
  have hk := h.parts p hp
  cases p
  case memory =>
    have hf : t.font = s.font := h.parts .font (font_not_written i)
    have hm : t.mem = s.mem := hk
    intro a
    simp only [State.memRead, hm, hf]
  all_goals exact hk

theorem refl (i : Instr) (s : State) : StrictlyFramed i s s :=
  ⟨fun p _ => by cases p <;> rfl, fun _ _ => rfl⟩

theorem of_next {u : State} (h : StrictlyFramed i s u) (hn : (.next u : Result) = .next t) : StrictlyFramed i s t :=
  Host.Outcome.next.inj hn ▸ h

/-- One update of the state that leaves every piece alone but those the matrix gives to `i`, and every register. -/
theorem update {u : State} (h : StrictlyFramed i s t) (hp : ∀ p, p ∉ writtenParts i → p.kept t u)
    (hr : ∀ k, u.reg k = t.reg k) : StrictlyFramed i s u := by
  refine ⟨fun p hn => ?_, fun k hk => (hr k).trans (h.regs k hk)⟩
  have ht := h.parts p hn
  have hu := hp p hn
  cases p <;> exact Eq.trans hu ht

theorem setReg (h : StrictlyFramed i s t) {x : Reg} (hx : writesReg i x) (b : Byte) :
    StrictlyFramed i s (t.setReg x b) := by
  refine ⟨h.parts, fun k hk => ?_⟩
  have hne : k ≠ x := fun e => hk (e ▸ hx)
  rw [State.reg_setReg, if_neg hne, h.regs k hk]

theorem jump (h : StrictlyFramed i s t) (w : Word) : StrictlyFramed i s (t.jump w) := ⟨h.parts, h.regs⟩

theorem advance (h : StrictlyFramed i s t) : StrictlyFramed i s t.advance := h.jump _

theorem skipIf (h : StrictlyFramed i s t) (c : Bool) : StrictlyFramed i s (t.skipIf c) := h.jump _

theorem setI (h : StrictlyFramed i s t) (hi : .index ∈ writtenParts i) (w : Word) : StrictlyFramed i s (t.setI w) :=
  h.update (fun p hp => by cases p with | index => exact absurd hi hp | _ => rfl) fun _ => rfl

theorem setDT (h : StrictlyFramed i s t) (hi : .delay ∈ writtenParts i) (b : Byte) : StrictlyFramed i s (t.setDT b) :=
  h.update (fun p hp => by cases p with | delay => exact absurd hi hp | _ => rfl) fun _ => rfl

theorem setST (h : StrictlyFramed i s t) (hi : .sound ∈ writtenParts i) (b : Byte) : StrictlyFramed i s (t.setST b) :=
  h.update (fun p hp => by cases p with | sound => exact absurd hi hp | _ => rfl) fun _ => rfl

theorem setFB (h : StrictlyFramed i s t) (hi : .screen ∈ writtenParts i) (fb : Screen) :
    StrictlyFramed i s (t.setFB fb) :=
  h.update (fun p hp => by cases p with | screen => exact absurd hi hp | _ => rfl) fun _ => rfl

theorem memWrite (h : StrictlyFramed i s t) (hi : .memory ∈ writtenParts i) (addr : Nat) (b : Byte) :
    StrictlyFramed i s (t.memWrite addr b) :=
  h.update (fun p hp => by cases p with | memory => exact absurd hi hp | _ => rfl) fun _ => rfl

theorem raiseCondition (h : StrictlyFramed i s t) (hi : .errors ∈ writtenParts i) (c : Condition) :
    StrictlyFramed i s (t.raiseCondition c) :=
  h.update (fun p hp => by cases p with | errors => exact absurd hi hp | _ => rfl) fun _ => rfl

theorem push (h : StrictlyFramed i s t) (hsp : .stackPointer ∈ writtenParts i) (hst : .stack ∈ writtenParts i)
    (w : Word) (ht : t.sp.val < 16) : StrictlyFramed i s (t.push w ht) :=
  h.update (fun p hp => by
    cases p with | stackPointer => exact absurd hsp hp | stack => exact absurd hst hp | _ => rfl) fun _ => rfl

theorem popTo (h : StrictlyFramed i s t) (hi : .stackPointer ∈ writtenParts i) (n : Nat) (hn : n < 16) :
    StrictlyFramed i s (t.popTo n hn) :=
  h.update (fun p hp => by cases p with | stackPointer => exact absurd hi hp | _ => rfl) fun _ => rfl

theorem takeRandom (h : StrictlyFramed i s t) (hi : .draws ∈ writtenParts i) {x : Reg} (hx : writesReg i x)
    (kk r : Byte) : StrictlyFramed i s (t.takeRandom x kk r) :=
  (h.setReg hx (r &&& kk)).update (fun p hp => by cases p with | draws => exact absurd hi hp | _ => rfl) fun _ => rfl

theorem storeRegs (h : StrictlyFramed i s t) (hi : .memory ∈ writtenParts i) {n : Nat} (hn : n ≤ 16) :
    StrictlyFramed i s (t.storeRegs n) := by
  obtain ⟨⟨hs⟩, -⟩ := t.storeRegs_spec n hn
  rw [hs]
  exact h.update (fun p hp => by cases p with | memory => exact absurd hi hp | _ => rfl) fun _ => rfl

theorem loadRegs (h : StrictlyFramed i s t) {n : Nat} (hn : n ≤ 16) (hx : ∀ k : Reg, k.toNat < n → writesReg i k) :
    StrictlyFramed i s (t.loadRegs n) := by
  obtain ⟨hs, hr⟩ := t.loadRegs_spec n hn
  refine ⟨by rw [hs]; exact h.parts, fun k hk => ?_⟩
  rw [hr, if_neg (mt (hx k) hk), h.regs k hk]

end StrictlyFramed

/-- Every instruction stays within its frame: each update its meaning makes is one the access matrix gives it. -/
theorem exec_strictlyFramed {i : Instr} {s t : State} (h : exec i s = .next t) : StrictlyFramed i s t := by
  have h0 := StrictlyFramed.refl i s
  cases i with
  | ldVxByte | addVxByte | ldVxVy | orVxVy | andVxVy | xorVxVy | ldVxDT => exact (h0.setReg rfl _).advance.of_next h
  | addVxVy => exact ((h0.setReg (.inl rfl) _).setReg (.inr rfl) _).advance.of_next h
  | subVxVy | shrVx | subnVxVy | shlVx => exact ((h0.setReg (.inr rfl) _).setReg (.inl rfl) _).advance.of_next h
  | seVxByte | sneVxByte | seVxVy | sneVxVy | skpVx | sknpVx => exact (h0.skipIf _).of_next h
  | jpAddr | jpV0Addr => exact (h0.jump _).of_next h
  | ldIAddr | addIVx | ldFVx => exact (h0.setI (.head _) _).advance.of_next h
  | ldDTVx => exact (h0.setDT (.head _) _).advance.of_next h
  | ldSTVx => exact (h0.setST (.head _) _).advance.of_next h
  | rndVxByte => exact (h0.takeRandom (.head _) rfl _ _).advance.of_next h
  | cls => exact (h0.setFB (.head _) _).advance.of_next h
  | drwVxVyNibble => exact ((h0.setFB (.head _) _).setReg rfl _).advance.of_next h
  | ldBVx => exact (((h0.memWrite (.head _) _ _).memWrite (.head _) _ _).memWrite (.head _) _ _).advance.of_next h
  | ldMemVx x => exact (h0.storeRegs (.head _) x.isLt).advance.of_next h
  | ldVxMem x => exact (h0.loadRegs x.isLt fun k hk => BitVec.le_def.2 (Nat.le_of_lt_succ hk)).advance.of_next h
  | ret =>
    obtain ⟨-, rfl⟩ | ⟨n, hn, -, rfl⟩ := exec_ret_cases h
    · exact h0.raiseCondition (.tail _ (.head _)) _
    · exact h0.popTo (.head _) n hn
  | callAddr nnn =>
    obtain ⟨-, rfl⟩ | ⟨hs, rfl⟩ := exec_callAddr_cases h
    · exact h0.raiseCondition (.tail _ (.tail _ (.head _))) _
    · exact (h0.push (.head _) (.tail _ (.head _)) _ hs).jump _
  | ldVxK =>
    obtain ⟨-, rfl⟩ | ⟨k, -, rfl⟩ := exec_ldVxK_cases h
    · exact h0
    · exact (h0.setReg rfl _).advance

/-- Settles O14: every update of every meaning stays within the frame. -/
theorem accessMatrixIsTheFrame : Obligations.AccessMatrixIsTheFrame := by
  intro i s t h
  exact (exec_strictlyFramed h).framed

end Sys2Proof.Machine
end

section
namespace Sys2Proof.Machine

/-! ### ERR: one cause for each bit (R33, R150) -/

/-- Only 00EE and 2NNN may write ERR. -/
theorem errors_written {i : Instr} (h : Part.errors ∈ writtenParts i) : i = .ret ∨ ∃ nnn, i = .callAddr nnn := by
  cases i with
  | ret => exact .inl rfl
  | callAddr nnn => exact .inr ⟨nnn, rfl⟩
  | _ => simp [writtenParts] at h

theorem causes_iff_of_unknown {s : State} {e : DecodeError} (hd : decode s.fetch = .error e) (c : Condition) :
    causes c s ↔ .unknownInstruction = c := by
  cases c <;> simp [causes, hd]

theorem causes_iff_of_ret {s : State} (hd : decode s.fetch = .ok .ret) (c : Condition) :
    causes c s ↔ .stackUnderflow = c ∧ s.sp.val = 0 := by
  cases c <;> simp [causes, hd]

theorem causes_iff_of_callAddr {s : State} {nnn : Addr} (hd : decode s.fetch = .ok (.callAddr nnn)) (c : Condition) :
    causes c s ↔ .stackOverflow = c ∧ s.sp.val = 16 := by
  cases c <;> simp [causes, hd]

/-- An instruction that may not write ERR raises no condition. -/
theorem not_causes_of_decode {s : State} {i : Instr} (hd : decode s.fetch = .ok i)
    (hw : Part.errors ∉ writtenParts i) (c : Condition) : ¬ causes c s := by
  cases c with
  | unknownInstruction => simp [causes, hd]
  | stackOverflow =>
    rintro ⟨nnn, hc, -⟩
    obtain rfl := Except.ok.inj (hd.symm.trans hc)
    exact hw (by simp [writtenParts])
  | stackUnderflow =>
    rintro ⟨hr, -⟩
    obtain rfl := Except.ok.inj (hd.symm.trans hr)
    exact hw (by simp [writtenParts])

/-- An ERR bit after a step is the bit before it or its one cause (R33, R150). -/
theorem step_raised_iff {s t : State} (h : step s = .next t) (c : Condition) :
    t.raised c = true ↔ s.raised c = true ∨ causes c s := by
  obtain ⟨i, hd, hx⟩ | ⟨e, hd, rfl⟩ := step_cases h
  · by_cases hw : Part.errors ∈ writtenParts i
    · obtain rfl | ⟨nnn, rfl⟩ := errors_written hw
      · rw [causes_iff_of_ret hd]
        obtain ⟨h0, rfl⟩ | ⟨n, hn, hs, rfl⟩ := exec_ret_cases hx
        · simp [h0]
        · simp [hs]
      · rw [causes_iff_of_callAddr hd]
        obtain ⟨h16, rfl⟩ | ⟨hs, rfl⟩ := exec_callAddr_cases hx
        · simp [h16]
        · simp [hs.ne]
    · have he : t.err = s.err := (exec_strictlyFramed hx).parts .errors hw
      simp [State.raised, he, not_causes_of_decode hd hw]
  · simp [causes_iff_of_unknown hd]

/-- Settles O15: a bit is set by its own cause only, and nothing clears it. -/
theorem errBitsAreStickyWithOneCauseEach : Obligations.ErrBitsAreStickyWithOneCauseEach := by
  intro s t c h
  exact step_raised_iff h c

/-! ### ERR is never read (R33) -/

/-- The state with another value of ERR. -/
def State.withErr (s : State) (e : BitVec 3) : State := { s with err := e }

theorem State.storeRegs_withErr (s : State) (e : BitVec 3) (n : Nat) :
    (s.withErr e).storeRegs n = (s.storeRegs n).withErr e :=
  List.foldl_hom (State.withErr · e) fun _ _ => rfl

theorem State.loadRegs_withErr (s : State) (e : BitVec 3) (n : Nat) :
    (s.withErr e).loadRegs n = (s.loadRegs n).withErr e :=
  List.foldl_hom (State.withErr · e) fun _ _ => rfl

/-- From a state with another ERR every instruction does the same to everything but ERR. -/
theorem exec_withErr {i : Instr} {s t : State} (h : exec i s = .next t) (e : BitVec 3) :
    ∃ f, exec i (s.withErr e) = .next (t.withErr f) := by
  cases i with
  | ret =>
    obtain ⟨h0, rfl⟩ | ⟨n, hn, hs, rfl⟩ := exec_ret_cases h
    · exact ⟨_, exec_ret_of_zero (s := s.withErr e) h0⟩
    · exact ⟨e, exec_ret_of_succ (s := s.withErr e) hs hn⟩
  | callAddr nnn =>
    obtain ⟨h16, rfl⟩ | ⟨hs, rfl⟩ := exec_callAddr_cases h
    · exact ⟨_, exec_callAddr_of_full (s := s.withErr e) h16⟩
    · exact ⟨e, exec_callAddr_of_lt (s := s.withErr e) hs⟩
  | ldVxK x =>
    obtain ⟨hk, rfl⟩ | ⟨k, hk, rfl⟩ := exec_ldVxK_cases h
    · exact ⟨e, exec_ldVxK_of_none (s := t.withErr e) hk⟩
    · exact ⟨e, exec_ldVxK_of_some (s := s.withErr e) hk⟩
  | ldMemVx x =>
    obtain rfl := Host.Outcome.next.inj h
    exact ⟨e, congrArg (fun u : State => Host.Outcome.next u.advance) (s.storeRegs_withErr e (x.toNat + 1))⟩
  | ldVxMem x =>
    obtain rfl := Host.Outcome.next.inj h
    exact ⟨e, congrArg (fun u : State => Host.Outcome.next u.advance) (s.loadRegs_withErr e (x.toNat + 1))⟩
  | _ =>
    obtain rfl := Host.Outcome.next.inj h
    exact ⟨e, rfl⟩

/-- Settles O16: the fetched word does not depend on ERR, and no meaning looks at it. -/
theorem errIsNeverRead : Obligations.ErrIsNeverRead := by
  intro s t e h
  obtain ⟨i, hd, hx⟩ | ⟨d, hd, rfl⟩ := step_cases h
  · obtain ⟨f, hf⟩ := exec_withErr hx e
    exact ⟨t.withErr f, (step_of_decode (s := s.withErr e) hd).trans hf, rfl⟩
  · exact ⟨_, step_of_unknown (s := s.withErr e) hd, rfl⟩

end Sys2Proof.Machine
end

/-! ## State: the invariant (R39) -/
section
namespace Sys2Proof.Machine

/-- Settles O18: the reset state is the cleared state of a supported resolution. -/
theorem resetStateMeetsTheInvariant : Obligations.ResetStateMeetsTheInvariant :=
  State.Inv.cleared defaultFont 0 (by decide)

/-- An instruction that may write neither MEM nor FB keeps the invariant. -/
theorem State.Inv.of_strictlyFramed {i : Instr} {s t : State} (h : s.Inv) (hf : StrictlyFramed i s t)
    (hm : Part.memory ∉ writtenParts i) (hs : Part.screen ∉ writtenParts i) : t.Inv :=
  h.of_same (hf.parts .memory hm) (hf.parts .font (font_not_written i)) (hf.parts .screen hs)
    (hf.parts .resolution (resolution_not_written i))

/-- Every instruction keeps the invariant: the writes to MEM reduce their address, and those to FB keep its size (R39). -/
theorem State.Inv.of_exec {i : Instr} {s t : State} (h : s.Inv) (hx : exec i s = .next t) : t.Inv := by
  cases i with
  | cls =>
    obtain rfl := Host.Outcome.next.inj hx
    exact (h.setFB (Screen.sized_blank _ _)).of_same rfl rfl rfl rfl
  | drwVxVyNibble =>
    obtain rfl := Host.Outcome.next.inj hx
    exact (h.setFB (State.sized_blit h.fb h.res _ _ _)).of_same rfl rfl rfl rfl
  | ldBVx =>
    obtain rfl := Host.Outcome.next.inj hx
    exact (((h.memWrite _ _).memWrite _ _).memWrite _ _).of_same rfl rfl rfl rfl
  | ldMemVx x =>
    obtain rfl := Host.Outcome.next.inj hx
    exact (h.storeRegs x.isLt).of_same rfl rfl rfl rfl
  | _ => exact h.of_strictlyFramed (exec_strictlyFramed hx) (by simp [writtenParts]) (by simp [writtenParts])

theorem State.Inv.of_step {s t : State} (h : s.Inv) (hs : step s = .next t) : t.Inv := by
  obtain ⟨i, -, hx⟩ | ⟨e, -, rfl⟩ := step_cases hs
  · exact h.of_exec hx
  · exact h.of_same rfl rfl rfl rfl

/-- Settles O19: every instruction keeps the invariant, and so does the condition of an unknown word. -/
theorem stepKeepsTheInvariant : Obligations.StepKeepsTheInvariant := by
  intro s t h hs
  exact h.of_step hs

end Sys2Proof.Machine
end

/-! ## State: the host's operations (R15, R170, R175) -/
section
namespace Sys2Proof.Machine

/-! ### RESET -/

/-- RESET succeeds exactly with a supported resolution and an image of at most 3584 bytes, and then answers the cleared
state with the image placed at ENTRY (R175, R176). -/
theorem reset_eq_next_iff {font : Font} {draws : Nat} {res : Word} {image : List Byte} {t : State} :
    reset font draws res image = .next t ↔ resSupported res = true ∧ image.length ≤ 3584 ∧
      t = (State.cleared font draws res).loadBytes Config.entry image := by
  have hf : imageFits image = decide (image.length ≤ 3584) := rfl
  unfold reset
  by_cases hr : resSupported res = true <;> by_cases hl : image.length ≤ 3584 <;>
    simp [hr, hl, hf, eq_comm (a := t)]

/-! ### STEP(rnd) -/

/-- STEP(rnd) is CXKK's effect with the byte given, or the step (R90, R97). -/
theorem stepWith_cases {rnd : Byte} {s t : State} (h : stepWith rnd s = .next t) :
    (∃ x kk, decode s.fetch = .ok (.rndVxByte x kk) ∧ t = (s.takeRandom x kk rnd).advance) ∨ step s = .next t := by
  unfold stepWith at h
  split at h
  · exact .inl ⟨_, _, by assumption, (Host.Outcome.next.inj h).symm⟩
  · exact .inr h

/-- No step changes FONT. -/
theorem step_font {s t : State} (h : step s = .next t) : t.font = s.font := by
  obtain ⟨i, -, hx⟩ | ⟨e, -, rfl⟩ := step_cases h
  · exact (exec_strictlyFramed hx).parts .font (font_not_written i)
  · rfl

/-- No step changes RES (R32). -/
theorem step_res {s t : State} (h : step s = .next t) : t.res = s.res := by
  obtain ⟨i, -, hx⟩ | ⟨e, -, rfl⟩ := step_cases h
  · exact (exec_strictlyFramed hx).parts .resolution (resolution_not_written i)
  · rfl

theorem State.Inv.of_stepWith {rnd : Byte} {s t : State} (h : s.Inv) (hs : stepWith rnd s = .next t) : t.Inv := by
  obtain ⟨x, kk, -, rfl⟩ | hs := stepWith_cases hs
  · exact h.of_same rfl rfl rfl rfl
  · exact h.of_step hs

theorem stepWith_font {rnd : Byte} {s t : State} (h : stepWith rnd s = .next t) : t.font = s.font := by
  obtain ⟨x, kk, -, rfl⟩ | h := stepWith_cases h
  · rfl
  · exact step_font h

/-! ### One operation of a session -/

/-- The state `t` an admitted operation of the session `c` reaches (R170, R177). -/
inductive Session.Reaches (c : Session) : HostOp → State → Prop
  | reset {res : Word} {image : List Byte} {t : State} (h : Machine.reset c.font c.draws res image = .next t) :
    c.Reaches (.reset res image) t
  | step {rnd : Byte} {s t : State} (hs : c.state = some s) (h : stepWith rnd s = .next t) : c.Reaches (.step rnd) t
  | tick {s : State} (hs : c.state = some s) : c.Reaches .tick s.tick
  | setKey {s : State} (hs : c.state = some s) (index : Nat) (pressed : Bool) :
    c.Reaches (.setKey index pressed) (s.setKey index pressed)

theorem Session.after_of_outcome {c : Session} {op : HostOp} {r : Result} (h : perform op c = c.outcome r) :
    c.after op = c ∨ ∃ t, r = .next t ∧ c.after op = { c with state := some t } := by
  unfold Session.after
  rw [h]
  cases r with
  | next t => exact .inr ⟨t, rfl, rfl⟩
  | fault | refused => exact .inl rfl

/-- What an operation does to a session: nothing, where it fails or is not admitted (R154, R177), or it replaces the
state by one it reaches. -/
theorem Session.after_cases (c : Session) (op : HostOp) :
    c.after op = c ∨ ∃ t, c.Reaches op t ∧ c.after op = { c with state := some t } := by
  cases op with
  | reset res image => exact (Session.after_of_outcome rfl).imp_right fun ⟨t, ht, h⟩ => ⟨t, .reset ht, h⟩
  | step rnd =>
    cases hs : c.state with
    | none => exact .inl (by simp [Session.after, perform, hs])
    | some s =>
      refine (Session.after_of_outcome (r := stepWith rnd s) (by simp [perform, hs])).imp_right ?_
      rintro ⟨t, ht, h⟩
      exact ⟨t, .step hs ht, h⟩
  | tick =>
    cases hs : c.state with
    | none => exact .inl (by simp [Session.after, perform, hs])
    | some s => exact .inr ⟨s.tick, .tick hs, by simp [Session.after, perform, hs, Session.outcome]⟩
  | setKey index pressed =>
    cases hs : c.state with
    | none => exact .inl (by simp [Session.after, perform, hs])
    | some s =>
      exact .inr ⟨s.setKey index pressed, .setKey hs index pressed, by
        simp [Session.after, perform, hs, Session.outcome]⟩

/-! ### The invariant of a session (R39) -/

theorem State.loadBytes_font (s : State) (addr : Nat) {image : List Byte} (hl : image.length ≤ 4096) :
    (s.loadBytes addr image).font = s.font := by
  obtain ⟨⟨hs⟩, -⟩ := State.loadBytes_spec image s addr hl
  rw [hs]

/-- Every state an operation reaches meets the invariant and has the session's font. -/
theorem Session.Inv.of_reaches {c : Session} {op : HostOp} {t : State} (hc : c.Inv) (ht : c.Reaches op t) :
    t.Inv ∧ t.font = c.font := by
  cases ht with
  | reset h =>
    obtain ⟨hr, hl, rfl⟩ := reset_eq_next_iff.1 h
    have hl' : _ ≤ 4096 := hl.trans (by decide)
    exact ⟨(State.Inv.cleared c.font c.draws hr).loadBytes _ hl', State.loadBytes_font _ _ hl'⟩
  | step hs h =>
    obtain ⟨hi, hf⟩ := hc _ hs
    exact ⟨hi.of_stepWith h, (stepWith_font h).trans hf⟩
  | tick hs =>
    obtain ⟨hi, hf⟩ := hc _ hs
    exact ⟨hi.of_same rfl rfl rfl rfl, hf⟩
  | setKey hs index pressed =>
    obtain ⟨hi, hf⟩ := hc _ hs
    exact ⟨hi.of_same (by simp) (by simp) (by simp) (by simp), by simpa using hf⟩

theorem Session.Inv.after {c : Session} (hc : c.Inv) (op : HostOp) : (c.after op).Inv := by
  obtain h | ⟨t, ht, h⟩ := c.after_cases op <;> rw [h]
  · exact hc
  · rintro _ ⟨⟩
    exact hc.of_reaches ht

/-- Settles O20, by induction on the operations: each of them keeps the session's invariant. -/
theorem hostOperationsKeepTheInvariant : Obligations.HostOperationsKeepTheInvariant := by
  intro c ops hc
  exact List.foldlRecOn ops Session.after hc fun d hd op _ => hd.after op

/-! ### What every operation but RESET leaves (R32, R33, R39) -/

/-- `t` has the resolution and the font of `s`, and every ERR bit that is set in `s`. -/
structure State.Continues (s t : State) : Prop where
  res : t.res = s.res
  font : t.font = s.font
  raised : ∀ e : Condition, s.raised e = true → t.raised e = true

theorem State.Continues.refl (s : State) : s.Continues s := ⟨rfl, rfl, fun _ => id⟩

theorem State.Continues.trans {s t u : State} (h : s.Continues t) (k : t.Continues u) : s.Continues u :=
  ⟨k.res.trans h.res, k.font.trans h.font, fun e he => k.raised e (h.raised e he)⟩

theorem State.Continues.of_stepWith {rnd : Byte} {s t : State} (h : stepWith rnd s = .next t) : s.Continues t := by
  obtain ⟨x, kk, -, rfl⟩ | h := stepWith_cases h
  · exact ⟨rfl, rfl, fun _ => id⟩
  · exact ⟨step_res h, step_font h, fun e he => (step_raised_iff h e).2 (.inl he)⟩

theorem Session.Reaches.continues {c : Session} {op : HostOp} {s t : State} (ht : c.Reaches op t)
    (hop : ∀ res image, op ≠ .reset res image) (hs : c.state = some s) : s.Continues t := by
  cases ht with
  | reset => exact absurd rfl (hop _ _)
  | step hs' h =>
    obtain rfl := Option.some.inj (hs.symm.trans hs')
    exact .of_stepWith h
  | tick hs' =>
    obtain rfl := Option.some.inj (hs.symm.trans hs')
    exact ⟨rfl, rfl, fun _ => id⟩
  | setKey hs' index pressed =>
    obtain rfl := Option.some.inj (hs.symm.trans hs')
    exact ⟨by simp, by simp, fun e he => by simpa [State.raised] using he⟩

/-- Settles O21, by induction on the operations. -/
theorem sessionConstantsStayAndErrOnlyGrows : Obligations.SessionConstantsStayAndErrOnlyGrows := by
  intro c ops s hops hs
  have h : ∃ t, (c.run ops).state = some t ∧ s.Continues t := by
    refine List.foldlRecOn (motive := fun d : Session => ∃ t, d.state = some t ∧ s.Continues t) ops Session.after
      ⟨s, hs, .refl s⟩ fun d hd op hop => ?_
    obtain ⟨t, hdt, hst⟩ := hd
    obtain h | ⟨u, hu, h⟩ := d.after_cases op <;> rw [h]
    · exact ⟨t, hdt, hst⟩
    · exact ⟨u, rfl, hst.trans (hu.continues (hops op hop) hdt)⟩
  obtain ⟨t, ht, hres, hfont, hraised⟩ := h
  exact ⟨t, ht, hres, hfont, hraised⟩

/-! ### The table of R36 -/

/-- A successful RESET: the cleared state with a memory that holds the image from ENTRY up and elsewhere what an unlisted
address reads as, FONT and zeros (R36, R175). -/
theorem reset_spec (font : Font) (draws : Nat) {res : Word} {image : List Byte} (hr : resSupported res = true)
    (hl : image.length ≤ 3584) :
    ∃ t, reset font draws res image = .next t ∧ t = { State.cleared font draws res with mem := t.mem } ∧
      (∀ k, ∀ h : k < image.length, t.memRead (0x200 + k) = image[k]) ∧
      ∀ a < 4096, (a < 0x200 ∨ 0x200 + image.length ≤ a) → t.memRead a = Memory.unlisted font a := by
  obtain ⟨⟨hs⟩, -, himage, hrest⟩ :=
    State.loadBytes_spec image (State.cleared font draws res) Config.entry (hl.trans (by decide))
  refine ⟨_, reset_eq_next_iff.2 ⟨hr, hl, rfl⟩, hs, himage, fun a ha hout => ?_⟩
  rw [hrest a fun k hk => ?_]
  · exact congrArg (Memory.unlisted font) (Nat.mod_eq_of_lt ha)
  · simp only [effectiveAddress_eq_mod, Config.entry]
    omega

theorem Memory.unlisted_of_lt (font : Font) {a : Nat} (h : a < 80) : Memory.unlisted font a = font[a] := dif_pos h

theorem Memory.unlisted_of_le (font : Font) {a : Nat} (h : 80 ≤ a) : Memory.unlisted font a = 0 := dif_neg (by omega)

/-- Settles O55: the fields are those of the cleared state, and memory holds FONT, zeros, the image and zeros. -/
theorem resetGivesTheResetTable : Obligations.ResetGivesTheResetTable := by
  intro c res image hr hl
  obtain ⟨t, ht, hs, himage, hrest⟩ := reset_spec c.font c.draws hr hl
  have hfont : ∀ a, ∀ h : a < 80, t.memRead a = c.font[a] := fun a h => by
    rw [hrest a (by omega) (by omega), Memory.unlisted_of_lt c.font h]
  have hlow : ∀ a, 80 ≤ a → a < 0x200 → t.memRead a = 0 := fun a h h' => by
    rw [hrest a (by omega) (by omega), Memory.unlisted_of_le c.font h]
  have hhigh : ∀ k, image.length ≤ k → k < 3584 → t.memRead (0x200 + k) = 0 := fun k h h' => by
    rw [hrest _ (by omega) (by omega), Memory.unlisted_of_le c.font (by omega)]
  refine ⟨t, congrArg c.outcome ht, ?_⟩
  generalize t.mem = m at hs
  subst hs
  exact ⟨fun k => by simp [State.reg, State.cleared], rfl, rfl, rfl, fun k => by simp [State.cleared], rfl, rfl, rfl,
    fun k => by simp [State.cleared], rfl, Screen.pixel_blank _ _, Screen.sized_blank _ _, hfont, hlow, himage, hhigh, rfl⟩

end Sys2Proof.Machine
end

/-! ## State: memory and framebuffer as data (R30, R34) -/
section
namespace Sys2Proof.Machine

/-! ### The canonical form of MEM -/

/-- In a list of rising addresses a lookup finds exactly the entries. -/
theorem Memory.find_eq_some_iff {m : Memory} (h : m.Pairwise fun p q => p.1 < q.1) (a : Nat) (v : Byte) :
    Memory.find m a = some v ↔ (a, v) ∈ m := by
  induction m with
  | nil => simp [Memory.find]
  | cons c rest ih =>
    obtain ⟨b, w⟩ := c
    obtain ⟨hb, hrest⟩ := List.pairwise_cons.1 h
    by_cases hab : b = a
    · subst hab
      have hnot : (b, v) ∉ rest := fun hm => (hb _ hm).false
      simp [Memory.find, hnot, eq_comm (a := v)]
    · simp [Memory.find, hab, Ne.symm hab, ih hrest]

/-- A canonical memory lists exactly the bytes that differ from what an unlisted address reads as. -/
theorem Memory.mem_iff_read {font : Font} {m : Memory} (h : Memory.wf font m) (c : Host.Cell) :
    c ∈ m ↔ Memory.read font m c.1 = c.2 ∧ c.2 ≠ Memory.unlisted font c.1 := by
  obtain ⟨hrising, hlisted⟩ := h
  obtain ⟨a, v⟩ := c
  have hread := Memory.find_eq_some_iff hrising a
  constructor
  · intro hm
    exact ⟨by simp [Memory.read, (hread v).2 hm], (hlisted _ hm).2⟩
  · rintro ⟨hv, hne⟩
    refine (hread v).1 ?_
    unfold Memory.read at hv
    split at hv
    · simp_all
    · exact absurd hv.symm hne

theorem Memory.nodup_of_wf {font : Font} {m : Memory} (h : Memory.wf font m) : m.Nodup :=
  h.1.imp fun hlt e => hlt.ne (congrArg Prod.fst e)

/-- Settles O23: equal reads mean the same entries, and rising addresses leave one order for them. -/
theorem equalReadsMeanEqualMemories : Obligations.EqualReadsMeanEqualMemories := by
  intro font m k hm hk hread
  have hsame : ∀ c, c ∈ m ↔ c ∈ k := fun c => by rw [Memory.mem_iff_read hm, Memory.mem_iff_read hk, hread]
  have hperm : m.Perm k := (List.perm_ext_iff_of_nodup (Memory.nodup_of_wf hm) (Memory.nodup_of_wf hk)).2 hsame
  exact hperm.eq_of_pairwise (fun p q _ _ hpq hqp => absurd hpq hqp.asymm) hm.1 hk.1

/-! ### The display (R168) -/

/-- Rows of one length laid end to end: how many cells there are. -/
theorem Screen.length_flatten {fb : Screen} {w h : Nat} (hs : fb.sized w h) : fb.flatten.length = w * h := by
  obtain ⟨hlen, hrows⟩ := hs
  have hmap : fb.map List.length = List.replicate h w :=
    List.eq_replicate_iff.2 ⟨by simpa using hlen, by simpa using hrows⟩
  rw [List.length_flatten, hmap, List.sum_replicate, smul_eq_mul, Nat.mul_comm]

/-- Rows of one length laid end to end: where column x of row y stands. -/
theorem Screen.getElem?_flatten {fb : Screen} {w x : Nat} (hrows : ∀ row ∈ fb, row.length = w) (hx : x < w) (y : Nat) :
    fb.flatten[y * w + x]? = (fb[y]?.getD [])[x]? := by
  induction fb generalizing y with
  | nil => simp
  | cons row rest ih =>
    have hrow : row.length = w := hrows row List.mem_cons_self
    cases y with
    | zero => simp [List.getElem?_append_left, hrow, hx]
    | succ y =>
      have hle : row.length ≤ (y + 1) * w + x := by rw [hrow, Nat.succ_mul]; omega
      have hsub : (y + 1) * w + x - row.length = y * w + x := by rw [hrow, Nat.succ_mul]; omega
      rw [List.flatten_cons, List.getElem?_append_right hle, hsub, List.getElem?_cons_succ]
      exact ih (fun r hr => hrows r (List.mem_cons_of_mem _ hr)) y

/-- A cell of the screen is listed in its row. -/
theorem Screen.getElem?_row {fb : Screen} {w h x y : Nat} (hs : fb.sized w h) (hx : x < w) (hy : y < h) :
    (fb[y]?.getD [])[x]? = some (fb.pixel x y) := by
  obtain ⟨hlen, hrows⟩ := hs
  have hy' : y < fb.length := hlen ▸ hy
  have hx' : x < fb[y].length := by rw [hrows _ (List.getElem_mem hy')]; exact hx
  simp [Screen.pixel, hy', hx']

/-- Settles O47: FB is H rows of W cells, laid end to end. -/
theorem displayIsRowByRow : Obligations.DisplayIsRowByRow := by
  intro s hs
  refine ⟨Screen.length_flatten hs.fb, fun x hx y hy => ?_⟩
  exact (Screen.getElem?_flatten hs.fb.2 hx y).trans (Screen.getElem?_row hs.fb hx hy)

end Sys2Proof.Machine
end

/-! ## Memory: a fetch after a store (R63) -/
section
namespace Sys2Proof.Machine

/-- Addresses that name one byte are followed by addresses that name one byte (R52). -/
theorem effectiveAddress_succ {a b : Nat} (h : effectiveAddress a = effectiveAddress b) :
    effectiveAddress (a + 1) = effectiveAddress (b + 1) :=
  Nat.ModEq.add_right 1 h

theorem State.memRead_congr (s : State) {a b : Nat} (h : effectiveAddress a = effectiveAddress b) :
    s.memRead a = s.memRead b :=
  congrArg (Memory.read s.font s.mem) h

/-- A fetch reads the two bytes at any address that names the byte PC points to (R53, R91). -/
theorem State.fetch_eq_of_effectiveAddress (s : State) {a : Nat}
    (h : effectiveAddress s.pc.toNat = effectiveAddress a) :
    s.fetch = wordOfBytes (s.memRead a) (s.memRead (a + 1)) :=
  congrArg₂ wordOfBytes (s.memRead_congr h) (s.memRead_congr (effectiveAddress_succ h))

/-- FX55 leaves V[k] at I + k, for k up to X (R130). -/
theorem memRead_of_exec_ldMemVx {x : Reg} {s t : State} (h : exec (.ldMemVx x) s = .next t) {k : Nat}
    (hk : k ≤ x.toNat) : t.memRead (indexed s.i k) = s.reg (BitVec.ofNat 4 k) := by
  obtain rfl := Host.Outcome.next.inj h
  obtain ⟨-, -, hstored, -⟩ := s.storeRegs_spec (x.toNat + 1) x.isLt
  exact hstored k (Nat.lt_succ_of_le hk)

/-- Settles O24: PC names the byte at I + k, so the fetch reads the bytes stored at I + k and I + k + 1. -/
theorem nextFetchSeesTheStore : Obligations.NextFetchSeesTheStore := by
  intro x s t k h hk hpc
  have hfirst := memRead_of_exec_ldMemVx h (Nat.le_of_succ_le hk)
  have hsecond : t.memRead (indexed s.i k + 1) = _ := memRead_of_exec_ldMemVx h hk
  rw [t.fetch_eq_of_effectiveAddress hpc, hfirst, hsecond]

end Sys2Proof.Machine
end

/-! ## Encoding: decoder, encoder and opcode table agree (R70 to R79) -/
section
namespace Sys2Proof

/-! ### The round trip from an instruction (R76) -/

/-- The built word's fields lead the opcode map of R75 to the instruction's own arm, one group of cases per sub-map. -/
theorem decode_encode (i : Instr) : decode (encode i) = .ok i := by
  cases i with
  | cls | ret => rfl
  | jpAddr | callAddr | ldIAddr | jpV0Addr => simp [encode, decode]
  | seVxByte | sneVxByte | ldVxByte | addVxByte | rndVxByte => simp [encode, decode]
  | seVxVy | sneVxVy | drwVxVyNibble => simp [encode, decode]
  | ldVxVy | orVxVy | andVxVy | xorVxVy | addVxVy | subVxVy | shrVx | subnVxVy | shlVx =>
    simp [encode, decode, decode8]
  | skpVx | sknpVx => simp [encode, decode, decodeE]
  | ldVxDT | ldVxK | ldDTVx | ldSTVx | addIVx | ldFVx | ldBVx | ldMemVx | ldVxMem => simp [encode, decode, decodeF]

/-- Settles O2: every instruction's word decodes to it. -/
theorem decodeOfEncodeIsTheInstruction : Obligations.DecodeOfEncodeIsTheInstruction := decode_encode

/-! ### The round trip from a word (R74, R76) -/

section
variable {w : Word} {p : Nibble}

theorem formatA_of_fieldP (hp : fieldP w = p) : formatA p (fieldNNN w) = w := hp ▸ formatA_fields w

theorem formatK_of_fieldP (hp : fieldP w = p) : formatK p (fieldX w) (fieldKK w) = w := hp ▸ formatK_fields w

theorem formatD_of_fieldP (hp : fieldP w = p) : formatR p (fieldX w) (fieldY w) (fieldN w) = w :=
  hp ▸ formatR_fields w

theorem formatS_of_fields {ff : Byte} (hp : fieldP w = p) (hff : fieldKK w = ff) : formatK p (fieldX w) ff = w :=
  hff ▸ formatK_of_fieldP hp

theorem formatR_of_fields {f : Nibble} (hp : fieldP w = p) (hf : fieldN w = f) :
    formatR p (fieldX w) (fieldY w) f = w :=
  hf ▸ formatD_of_fieldP hp

end

section
variable {w : Word} {i : Instr}

/-- Each arm for p = 8 keeps X and Y and stands for its own function code f. -/
theorem encode_of_decode8 (hp : fieldP w = 0x8) (h : decode8 w = .ok i) : encode i = w := by
  unfold decode8 at h
  split at h <;> cases h
  all_goals exact formatR_of_fields hp (BitVec.eq_of_toNat_eq ‹_›)

/-- Each arm for p = E keeps X and stands for its own function code ff. -/
theorem encode_of_decodeE (hp : fieldP w = 0xE) (h : decodeE w = .ok i) : encode i = w := by
  unfold decodeE at h
  split at h <;> cases h
  all_goals exact formatS_of_fields hp (BitVec.eq_of_toNat_eq ‹_›)

/-- Each arm for p = F keeps X and stands for its own function code ff. -/
theorem encode_of_decodeF (hp : fieldP w = 0xF) (h : decodeF w = .ok i) : encode i = w := by
  unfold decodeF at h
  split at h <;> cases h
  all_goals exact formatS_of_fields hp (BitVec.eq_of_toNat_eq ‹_›)

/-- The opcode map of R75, digit by digit: each arm puts the fields it does not fix into the instruction. -/
theorem encode_of_decode (h : decode w = .ok i) : encode i = w := by
  unfold decode at h
  split at h
  -- `hp` names each arm's digit p; the last arm, p = F, has only what p is not.
  all_goals rename_i hp
  case h_1 =>
    split_ifs at h with hcls hret
    · cases h; exact hcls.symm
    · cases h; exact hret.symm
  case h_2 | h_3 | h_11 | h_12 => cases h; exact formatA_of_fieldP (BitVec.eq_of_toNat_eq hp)
  case h_4 | h_5 | h_7 | h_8 | h_13 => cases h; exact formatK_of_fieldP (BitVec.eq_of_toNat_eq hp)
  case h_6 | h_10 =>
    split_ifs at h with hf
    cases h
    exact formatR_of_fields (BitVec.eq_of_toNat_eq hp) hf
  case h_9 => exact encode_of_decode8 (BitVec.eq_of_toNat_eq hp) h
  case h_14 => cases h; exact formatD_of_fieldP (BitVec.eq_of_toNat_eq hp)
  case h_15 => exact encode_of_decodeE (BitVec.eq_of_toNat_eq hp) h
  case h_16 =>
    have hF : (fieldP w).toNat = 0xF := by
      simp only [imp_false] at *
      omega
    exact encode_of_decodeF (BitVec.eq_of_toNat_eq hF) h

/-- A word decodes to an instruction exactly when it is the instruction's word. -/
theorem decode_eq_ok_iff : decode w = .ok i ↔ encode i = w :=
  ⟨encode_of_decode, fun h => h ▸ decode_encode i⟩

end

/-- Settles O3: every arm of the opcode map keeps in the instruction each field it does not fix. -/
theorem encodeOfDecodeIsTheWord : Obligations.EncodeOfDecodeIsTheWord :=
  fun _ _ => encode_of_decode

/-! ### The rows of the opcode table (R76) -/

/-- Every word a row accepts decodes to an instruction of the row's mnemonic. -/
def OpcodeRow.Decodes (r : OpcodeRow) : Prop :=
  ∀ w : Word, r.accepts w = true → ∃ i, decode w = .ok i ∧ i.mnemonic = r.mnemonic

section
variable {w : Word} {p : Nibble}

theorem fieldP_of_mask (h : w &&& 0xF000 = formatA p 0) : fieldP w = p := by
  rw [← formatA_fields w, formatA_mask] at h
  simpa using congrArg fieldP h

theorem fields_of_maskS {ff : Byte} (h : w &&& 0xF0FF = formatK p 0 ff) : fieldP w = p ∧ fieldKK w = ff := by
  rw [← formatK_fields w, formatS_mask] at h
  exact ⟨by simpa using congrArg fieldP h, by simpa using congrArg fieldKK h⟩

theorem fields_of_maskR {f : Nibble} (h : w &&& 0xF00F = formatR p 0 0 f) : fieldP w = p ∧ fieldN w = f := by
  rw [← formatR_fields w, formatR_mask] at h
  exact ⟨by simpa using congrArg fieldP h, by simpa using congrArg fieldN h⟩

end

/-! A row of each format of R71 decodes: the instruction is built from the accepted word's own fields. Each lemma takes
the row's fixed digits and the constructor, whose encoding and mnemonic are the row's by definition. -/

namespace OpcodeRow.Decodes

theorem of_formatZ (i : Instr) : Decodes ⟨i.mnemonic, encode i, 0xFFFF⟩ := by
  intro w hw
  have h : encode i = w := (beq_iff_eq.1 hw).symm.trans BitVec.and_allOnes
  exact ⟨i, decode_eq_ok_iff.2 h, rfl⟩

section
variable {m : String} (p : Nibble)

theorem of_formatA (mk : Addr → Instr)
    (h : ∀ nnn, encode (mk nnn) = formatA p nnn ∧ (mk nnn).mnemonic = m := by exact fun _ => ⟨rfl, rfl⟩) :
    Decodes ⟨m, formatA p 0, 0xF000⟩ := by
  intro w hw
  obtain ⟨he, hm⟩ := h (fieldNNN w)
  have hp := fieldP_of_mask (beq_iff_eq.1 hw)
  exact ⟨_, decode_eq_ok_iff.2 (he.trans (formatA_of_fieldP hp)), hm⟩

theorem of_formatK (mk : Reg → Byte → Instr)
    (h : ∀ x kk, encode (mk x kk) = formatK p x kk ∧ (mk x kk).mnemonic = m := by exact fun _ _ => ⟨rfl, rfl⟩) :
    Decodes ⟨m, formatA p 0, 0xF000⟩ := by
  intro w hw
  obtain ⟨he, hm⟩ := h (fieldX w) (fieldKK w)
  have hp := fieldP_of_mask (beq_iff_eq.1 hw)
  exact ⟨_, decode_eq_ok_iff.2 (he.trans (formatK_of_fieldP hp)), hm⟩

theorem of_formatD (mk : Reg → Reg → Nibble → Instr)
    (h : ∀ x y n, encode (mk x y n) = formatR p x y n ∧ (mk x y n).mnemonic = m := by
      exact fun _ _ _ => ⟨rfl, rfl⟩) :
    Decodes ⟨m, formatA p 0, 0xF000⟩ := by
  intro w hw
  obtain ⟨he, hm⟩ := h (fieldX w) (fieldY w) (fieldN w)
  have hp := fieldP_of_mask (beq_iff_eq.1 hw)
  exact ⟨_, decode_eq_ok_iff.2 (he.trans (formatD_of_fieldP hp)), hm⟩

theorem of_formatR (f : Nibble) (mk : Reg → Reg → Instr)
    (h : ∀ x y, encode (mk x y) = formatR p x y f ∧ (mk x y).mnemonic = m := by exact fun _ _ => ⟨rfl, rfl⟩) :
    Decodes ⟨m, formatR p 0 0 f, 0xF00F⟩ := by
  intro w hw
  obtain ⟨he, hm⟩ := h (fieldX w) (fieldY w)
  obtain ⟨hp, hf⟩ := fields_of_maskR (beq_iff_eq.1 hw)
  exact ⟨_, decode_eq_ok_iff.2 (he.trans (formatR_of_fields hp hf)), hm⟩

theorem of_formatS (ff : Byte) (mk : Reg → Instr)
    (h : ∀ x, encode (mk x) = formatK p x ff ∧ (mk x).mnemonic = m := by exact fun _ => ⟨rfl, rfl⟩) :
    Decodes ⟨m, formatK p 0 ff, 0xF0FF⟩ := by
  intro w hw
  obtain ⟨he, hm⟩ := h (fieldX w)
  obtain ⟨hp, hff⟩ := fields_of_maskS (beq_iff_eq.1 hw)
  exact ⟨_, decode_eq_ok_iff.2 (he.trans (formatS_of_fields hp hff)), hm⟩

end

theorem of_mem_opcodeRowsLow : ∀ r ∈ opcodeRowsLow, r.Decodes := by
  unfold opcodeRowsLow
  simp only [List.forall_mem_cons]
  exact ⟨of_formatZ .cls, of_formatZ .ret, of_formatA 0x1 .jpAddr, of_formatA 0x2 .callAddr,
    of_formatK 0x3 .seVxByte, of_formatK 0x4 .sneVxByte, of_formatR 0x5 0x0 .seVxVy, of_formatK 0x6 .ldVxByte,
    of_formatK 0x7 .addVxByte, of_formatR 0x8 0x0 .ldVxVy, of_formatR 0x8 0x1 .orVxVy, of_formatR 0x8 0x2 .andVxVy,
    of_formatR 0x8 0x3 .xorVxVy, of_formatR 0x8 0x4 .addVxVy, of_formatR 0x8 0x5 .subVxVy,
    of_formatR 0x8 0x6 .shrVx, of_formatR 0x8 0x7 .subnVxVy, of_formatR 0x8 0xE .shlVx,
    of_formatR 0x9 0x0 .sneVxVy, List.forall_mem_nil _⟩

theorem of_mem_opcodeRowsHigh : ∀ r ∈ opcodeRowsHigh, r.Decodes := by
  unfold opcodeRowsHigh
  simp only [List.forall_mem_cons]
  exact ⟨of_formatA 0xA .ldIAddr, of_formatA 0xB .jpV0Addr, of_formatK 0xC .rndVxByte,
    of_formatD 0xD .drwVxVyNibble, of_formatS 0xE 0x9E .skpVx, of_formatS 0xE 0xA1 .sknpVx,
    of_formatS 0xF 0x07 .ldVxDT, of_formatS 0xF 0x0A .ldVxK, of_formatS 0xF 0x15 .ldDTVx,
    of_formatS 0xF 0x18 .ldSTVx, of_formatS 0xF 0x1E .addIVx, of_formatS 0xF 0x29 .ldFVx,
    of_formatS 0xF 0x33 .ldBVx, of_formatS 0xF 0x55 .ldMemVx, of_formatS 0xF 0x65 .ldVxMem, List.forall_mem_nil _⟩

end OpcodeRow.Decodes

/-- Every row of the table decodes. -/
theorem OpcodeRow.decodes_of_mem {r : OpcodeRow} (hr : r ∈ opcodeTable) : r.Decodes :=
  (List.mem_append.1 hr).elim (Decodes.of_mem_opcodeRowsLow r) (Decodes.of_mem_opcodeRowsHigh r)

open Laws.OwnRow in
/-- Every instruction's word has the fixed digits of the instruction's own row. -/
theorem encode_in_ownRow : ∀ i : Instr, Statement i
  | .cls => cls
  | .ret => ret
  | .jpAddr nnn => jpAddr nnn
  | .callAddr nnn => callAddr nnn
  | .seVxByte x kk => seVxByte x kk
  | .sneVxByte x kk => sneVxByte x kk
  | .seVxVy x y => seVxVy x y
  | .ldVxByte x kk => ldVxByte x kk
  | .addVxByte x kk => addVxByte x kk
  | .ldVxVy x y => ldVxVy x y
  | .orVxVy x y => orVxVy x y
  | .andVxVy x y => andVxVy x y
  | .xorVxVy x y => xorVxVy x y
  | .addVxVy x y => addVxVy x y
  | .subVxVy x y => subVxVy x y
  | .shrVx x y => shrVx x y
  | .subnVxVy x y => subnVxVy x y
  | .shlVx x y => shlVx x y
  | .sneVxVy x y => sneVxVy x y
  | .ldIAddr nnn => ldIAddr nnn
  | .jpV0Addr nnn => jpV0Addr nnn
  | .rndVxByte x kk => rndVxByte x kk
  | .drwVxVyNibble x y n => drwVxVyNibble x y n
  | .skpVx x => skpVx x
  | .sknpVx x => sknpVx x
  | .ldVxDT x => ldVxDT x
  | .ldVxK x => ldVxK x
  | .ldDTVx x => ldDTVx x
  | .ldSTVx x => ldSTVx x
  | .addIVx x => addIVx x
  | .ldFVx x => ldFVx x
  | .ldBVx x => ldBVx x
  | .ldMemVx x => ldMemVx x
  | .ldVxMem x => ldVxMem x

/-- Settles O4: a decoded word is its instruction's word and has that instruction's row; an accepted word is rebuilt
from its own fields. -/
theorem decoderFollowsTheOpcodeTable : Obligations.DecoderFollowsTheOpcodeTable := by
  refine ⟨rfl, fun w i h => ?_, fun w r hr hw => OpcodeRow.decodes_of_mem hr w hw⟩
  obtain rfl := encode_of_decode h
  exact encode_in_ownRow i

/-! ### The rows do not overlap (R74) -/

/-- Two rows that accept one word agree on every digit that both fix. -/
theorem OpcodeRow.bits_agree {r q : OpcodeRow} {w : Word} (hr : r.accepts w = true) (hq : q.accepts w = true) :
    r.bits &&& q.mask = q.bits &&& r.mask := by
  rw [← beq_iff_eq.1 hr, ← beq_iff_eq.1 hq, BitVec.and_assoc, BitVec.and_assoc, BitVec.and_comm r.mask]

/-- Any two rows of the table differ in a digit that both fix. -/
theorem opcodeTable_separated : ∀ r ∈ opcodeTable, ∀ q ∈ opcodeTable,
    r.bits &&& q.mask = q.bits &&& r.mask → r = q := by
  decide

/-- Settles O5: rows that accept one word agree on the digits both fix, and no two rows of the table do. -/
theorem opcodeRowsNeverOverlap : Obligations.OpcodeRowsNeverOverlap :=
  fun r hr q hq _ hrw hqw => opcodeTable_separated r hr q hq (OpcodeRow.bits_agree hrw hqw)

/-! ### Written-out words (R71, R76, R79) -/

/-- Settles O1: the fourteen words are run through the decoder. -/
theorem writtenWordsDecode : Obligations.WrittenWordsDecode := by
  unfold Obligations.WrittenWordsDecode
  decide

end Sys2Proof
end

/-! ## Encoding: a step at an unknown word (R78, R151) -/
section
namespace Sys2Proof.Machine

/-- Settles O8: the step raises UnknownInstruction, whose bit in ERR is neither of the two stack bits. -/
theorem unknownWordSetsUnkAndAdvances : Obligations.UnknownWordSetsUnkAndAdvances := by
  intro s e h
  exact ⟨s.raiseCondition .unknownInstruction, step_of_unknown h, by simp, by simp, by simp, rfl, rfl⟩

end Sys2Proof.Machine
end

/-! ## The step cycle: fetch, dispatch, commit (R90 to R99) -/
section
namespace Sys2Proof

/-- The first byte is the high half (R53). -/
theorem wordOfBytes_toNat (hi lo : Byte) : (wordOfBytes hi lo).toNat = 256 * hi.toNat + lo.toNat := by
  have happend : (wordOfBytes hi lo).toNat = hi.toNat <<< 8 ||| lo.toNat := BitVec.toNat_append hi lo
  rw [happend, ← Nat.shiftLeft_add_eq_or_of_lt lo.isLt, Nat.shiftLeft_eq]
  omega

end Sys2Proof

namespace Sys2Proof.Machine

/-! ### Fetch and dispatch (R91, R93) -/

/-- Settles O6: the first byte fetched is the high half, and a read reduces its address modulo 4096. -/
theorem fetchReadsTwoBytesBigEndian : Obligations.FetchReadsTwoBytesBigEndian := by
  intro s
  rw [State.memRead_mod, State.memRead_mod]
  exact wordOfBytes_toNat _ _

/-- Settles O7: the two bytes at PC are the fetched word, and a step runs what that word decodes to. -/
theorem stepRunsTheDecodedInstruction : Obligations.StepRunsTheDecodedInstruction :=
  fun _ _ => step_of_decode

/-! ### STEP(rnd) and the step (R97, R140) -/

/-- STEP(rnd) is CXKK's effect with the byte given, or the step. -/
theorem stepWith_eq_or (rnd : Byte) (s : State) :
    (∃ x kk, decode s.fetch = .ok (.rndVxByte x kk) ∧ stepWith rnd s = .next (s.takeRandom x kk rnd).advance) ∨
    stepWith rnd s = step s := by
  unfold stepWith
  split
  · exact .inl ⟨_, _, by assumption, rfl⟩
  · exact .inr rfl

theorem stepWith_of_not_rnd {s : State} (h : ∀ x kk, decode s.fetch ≠ .ok (.rndVxByte x kk)) (rnd : Byte) :
    stepWith rnd s = step s :=
  (stepWith_eq_or rnd s).resolve_left fun ⟨x, kk, hd, _⟩ => h x kk hd

/-- Settles O11: off a CXKK, STEP with any byte is the step. -/
theorem onlyRndLooksAtTheRandomByte : Obligations.OnlyRndLooksAtTheRandomByte := by
  intro r q s h
  rw [stepWith_of_not_rnd h r, stepWith_of_not_rnd h q]

/-- Settles O12: at a CXKK both take the drawn byte, and at any other word STEP(rnd) is the step. -/
theorem freeStepIsStepWithADrawnByte : Obligations.FreeStepIsStepWithADrawnByte := by
  intro s
  obtain ⟨x, kk, hd, h⟩ | h := stepWith_eq_or (Config.rnd s.draws) s
  · rw [h, step_of_decode hd]
    rfl
  · exact h.symm

/-! ### Every step completes (R98) -/

/-- Each instruction with two cases answers a next state in both; every other one has a single outcome. -/
theorem exec_completes (i : Instr) (s : State) : ∃ t, exec i s = .next t := by
  cases i with
  | ret =>
    cases h : s.sp.val with
    | zero => exact ⟨_, exec_ret_of_zero h⟩
    | succ n => exact ⟨_, exec_ret_of_succ h (by omega)⟩
  | callAddr nnn =>
    by_cases h : s.sp.val < 16
    · exact ⟨_, exec_callAddr_of_lt h⟩
    · exact ⟨_, exec_callAddr_of_full (by omega)⟩
  | ldVxK x =>
    cases h : s.firstKey with
    | none => exact ⟨_, exec_ldVxK_of_none h⟩
    | some k => exact ⟨_, exec_ldVxK_of_some h⟩
  | _ => exact ⟨_, rfl⟩

theorem step_completes (s : State) : ∃ t, step s = .next t := by
  cases h : decode s.fetch with
  | ok i => exact step_of_decode h ▸ exec_completes i s
  | error e => exact ⟨_, step_of_unknown h⟩

theorem stepWith_completes (rnd : Byte) (s : State) : ∃ t, stepWith rnd s = .next t := by
  obtain ⟨x, kk, -, h⟩ | h := stepWith_eq_or rnd s
  · exact ⟨_, h⟩
  · exact h ▸ step_completes s

/-- Settles O9: the instructions complete, so the step does, and STEP(rnd) with it. -/
theorem everyStepCompletes : Obligations.EveryStepCompletes :=
  ⟨exec_completes, step_completes, stepWith_completes⟩

/-! ### PC after a step (R95) -/

@[simp] theorem State.storeRegs_pc (s : State) (x : Reg) : (s.storeRegs (x.toNat + 1)).pc = s.pc := by
  obtain ⟨⟨hs⟩, -⟩ := s.storeRegs_spec (x.toNat + 1) x.isLt
  rw [hs]

@[simp] theorem State.loadRegs_pc (s : State) (x : Reg) : (s.loadRegs (x.toNat + 1)).pc = s.pc := by
  obtain ⟨hs, -⟩ := s.loadRegs_spec (x.toNat + 1) x.isLt
  rw [hs]

/-- BNNN's sum of words is the word of the exact sum (R108). -/
theorem Addr.toWord_add_toWord (nnn : Addr) (b : Byte) :
    Addr.toWord nnn + Byte.toWord b = BitVec.ofNat 16 (nnn.toNat + b.toNat) :=
  BitVec.eq_of_toNat_eq (by simp)

theorem pcAfter_ret_of_succ {s : State} {n : Nat} (h : s.sp.val = n + 1) (hn : n < 16) :
    pcAfter .ret s = s.stack[n] := by
  simp [pcAfter, h]

/-- Every instruction commits the table's PC: the instructions with two cases case by case, a skip by its condition. -/
theorem exec_pc {i : Instr} {s t : State} (h : exec i s = .next t) : t.pc = pcAfter i s := by
  cases i with
  | ret =>
    obtain ⟨h0, rfl⟩ | ⟨n, hn, hs, rfl⟩ := exec_ret_cases h
    · simp [pcAfter, h0]
    · exact (pcAfter_ret_of_succ hs hn).symm
  | callAddr nnn =>
    obtain ⟨h16, rfl⟩ | ⟨hs, rfl⟩ := exec_callAddr_cases h
    · simp [pcAfter, h16]
    · exact (if_neg hs.ne).symm
  | ldVxK x =>
    obtain ⟨hk, rfl⟩ | ⟨k, hk, rfl⟩ := exec_ldVxK_cases h
    · exact (if_pos (State.firstKey_eq_none.1 hk)).symm
    · have hpressed : ¬ ∀ k, s.keyDown k = false := fun hn => by simp [State.firstKey_eq_none.2 hn] at hk
      exact (if_neg hpressed).symm
  | seVxByte | sneVxByte | seVxVy | sneVxVy | skpVx | sknpVx =>
    obtain rfl := Host.Outcome.next.inj h
    simp [pcAfter]
  | jpV0Addr nnn =>
    obtain rfl := Host.Outcome.next.inj h
    exact Addr.toWord_add_toWord nnn (s.reg 0)
  | ldMemVx | ldVxMem =>
    obtain rfl := Host.Outcome.next.inj h
    simp [pcAfter]
  | _ =>
    obtain rfl := Host.Outcome.next.inj h
    rfl

/-- Settles O10: every instruction's case of the table, and PC + 2 where the unknown word's condition is raised. -/
theorem pcAfterEveryInstruction : Obligations.PcAfterEveryInstruction := by
  refine ⟨fun _ _ _ => exec_pc, fun s t e hd hs => ?_⟩
  obtain rfl := Host.Outcome.next.inj ((step_of_unknown hd).symm.trans hs)
  rfl

/-! ### Timers and keys (R96) -/

theorem keys_not_written (i : Instr) : Part.keys ∉ writtenParts i := by
  unfold writtenParts; split <;> decide

theorem delay_written {i : Instr} (h : Part.delay ∈ writtenParts i) : ∃ x, i = .ldDTVx x := by
  cases i with
  | ldDTVx x => exact ⟨x, rfl⟩
  | _ => simp [writtenParts] at h

theorem sound_written {i : Instr} (h : Part.sound ∈ writtenParts i) : ∃ x, i = .ldSTVx x := by
  cases i with
  | ldSTVx x => exact ⟨x, rfl⟩
  | _ => simp [writtenParts] at h

/-- Settles O13: the decoded instruction's frame holds KEY always, and DT and ST but for their one writer. -/
theorem stepLeavesTimersAndKeysAlone : Obligations.StepLeavesTimersAndKeysAlone := by
  intro s t h
  obtain ⟨i, hd, hx⟩ | ⟨e, -, rfl⟩ := step_cases h
  · have hf := exec_strictlyFramed hx
    refine ⟨hf.parts .keys (keys_not_written i), fun hdt => hf.parts .delay fun hw => ?_,
      fun hst => hf.parts .sound fun hw => ?_⟩
    · obtain ⟨x, rfl⟩ := delay_written hw
      exact hdt x hd
    · obtain ⟨x, rfl⟩ := sound_written hw
      exact hst x hd
  · exact ⟨rfl, fun _ => rfl, fun _ => rfl⟩

end Sys2Proof.Machine
end

/-! ## Control flow: return, call, jumps and skips (R100 to R109) -/
section
namespace Sys2Proof.Machine

/-! ### What every instruction answers (R38, R95, R98) -/

/-- Every instruction answers a next state, with the PC of R95's table and the frame of R38. -/
theorem exec_pc_and_frame (i : Instr) (s : State) :
    ∃ t, exec i s = .next t ∧ t.pc = pcAfter i s ∧ Framed i s t := by
  obtain ⟨t, h⟩ := exec_completes i s
  exact ⟨t, h, exec_pc h, (exec_strictlyFramed h).framed⟩

/-! ### The call stack (R101, R102) -/

/-- Settles O25: the two cases of 00EE, told apart by SP. -/
theorem returnPopsOrUnderflows : Obligations.ReturnPopsOrUnderflows := by
  intro s
  cases hs : s.sp.val with
  | zero =>
    have h := exec_ret_of_zero hs
    exact ⟨_, h, fun _ => ⟨rfl, rfl, rfl⟩, fun n _ hn => absurd hn (by omega), rfl, (exec_strictlyFramed h).framed⟩
  | succ m =>
    have h := exec_ret_of_succ hs (by omega)
    refine ⟨_, h, fun h0 => absurd h0 (by omega), fun n _ hn => ?_, rfl, (exec_strictlyFramed h).framed⟩
    obtain rfl : m = n := by omega
    exact ⟨rfl, rfl, rfl⟩

/-- Settles O26: the two cases of 2NNN, told apart by SP; the push writes the entry at SP and no other. -/
theorem callPushesOrOverflows : Obligations.CallPushesOrOverflows := by
  intro nnn s
  by_cases hs : s.sp.val < 16
  · have h := exec_callAddr_of_lt (nnn := nnn) hs
    refine ⟨_, h, fun h16 => absurd h16 hs.ne, fun _ => ⟨?_, fun k hk hne => ?_, rfl, Addr.toNat_toWord nnn, rfl⟩,
      (exec_strictlyFramed h).framed⟩
    · exact Vector.getElem_set_self hs
    · exact Vector.getElem_set_ne hs hk hne.symm
  · have h := exec_callAddr_of_full (nnn := nnn) (s := s) (by omega)
    exact ⟨_, h, fun _ => ⟨rfl, rfl, rfl, rfl⟩, fun hlt => absurd hlt hs, (exec_strictlyFramed h).framed⟩

/-- Settles O27: after the call SP is one more than before, so 00EE pops the entry that the call has just written. -/
theorem callThenReturnComesBack : Obligations.CallThenReturnComesBack := by
  intro nnn s t hs h
  obtain ⟨h16, -⟩ | ⟨-, rfl⟩ := exec_callAddr_cases h
  · exact absurd h16 hs.ne
  · exact ⟨_, exec_ret_of_succ rfl hs, Vector.getElem_set_self hs, rfl, rfl⟩

/-! ### Jumps (R108, R109) -/

/-- The largest target of a BNNN, 0x0FFF + 0xFF, is a word, so the sum of R108 is exact. -/
theorem toNat_pcAfter_jpV0Addr (nnn : Addr) (s : State) :
    (pcAfter (.jpV0Addr nnn) s).toNat = nnn.toNat + (s.reg 0).toNat :=
  Nat.mod_eq_of_lt (by omega)

/-- Settles O28: the table's PC for 1NNN and for BNNN, read as a number. -/
theorem jumpsSetThePc : Obligations.JumpsSetThePc := by
  intro nnn s
  constructor
  · obtain ⟨t, h, hpc, hf⟩ := exec_pc_and_frame (.jpAddr nnn) s
    exact ⟨t, h, hpc ▸ Addr.toNat_toWord nnn, hf⟩
  · obtain ⟨t, h, hpc, hf⟩ := exec_pc_and_frame (.jpV0Addr nnn) s
    exact ⟨t, h, hpc ▸ toNat_pcAfter_jpV0Addr nnn s, hf⟩

@[simp] theorem State.jump_self (s : State) : s.jump s.pc = s := rfl

/-- Settles O29: the target is PC itself, and a jump writes nothing but PC. -/
theorem selfJumpChangesNothing : Obligations.SelfJumpChangesNothing := by
  intro nnn s hd hpc
  have htarget : Addr.toWord nnn = s.pc := BitVec.eq_of_toNat_eq ((Addr.toNat_toWord nnn).trans hpc.symm)
  calc step s = exec (.jpAddr nnn) s := step_of_decode hd
    _ = .next (s.jump (Addr.toWord nnn)) := rfl
    _ = .next s := by rw [htarget, State.jump_self]

/-! ### Skips (R103 to R106) -/

/-- Settles O30: the table's PC for each skip; the two that skip on a difference state it with the branches exchanged. -/
theorem skipsCompareRegisters : Obligations.SkipsCompareRegisters := by
  intro x y kk s
  refine ⟨exec_pc_and_frame _ s, ?_, exec_pc_and_frame _ s, ?_⟩
  · simpa only [pcAfter, ite_not] using exec_pc_and_frame (.sneVxByte x kk) s
  · simpa only [pcAfter, ite_not] using exec_pc_and_frame (.sneVxVy x y) s

end Sys2Proof.Machine
end

/-! ## ALU: loads, arithmetic, logic and shifts (R110 to R123) -/
section
namespace Sys2Proof.Machine

/-! ### The three ways an ALU instruction writes its registers (R122) -/

section
variable {i : Instr} {s : State} {x : Reg} {result flag : Byte}

/-- One register written and PC + 2: V[X] holds the result. -/
theorem exec_spec_of_setReg (h : exec i s = .next (s.setReg x result).advance) :
    ∃ t, exec i s = .next t ∧ t.reg x = result ∧ t.pc = s.pc + 2 ∧ Framed i s t :=
  ⟨_, h, (State.reg_setReg s x x result).trans (if_pos rfl), rfl, (exec_strictlyFramed h).framed⟩

/-- The result, then the flag: VF holds the flag whatever X is, and V[X] the result unless X = F. -/
theorem exec_spec_of_resultThenFlag (h : exec i s = .next (s.resultThenFlag x result flag).advance) :
    ∃ t, exec i s = .next t ∧ (x ≠ vf → t.reg x = result) ∧ t.reg vf = flag ∧ t.pc = s.pc + 2 ∧ Framed i s t := by
  refine ⟨_, h, fun hx => ?_, ?_, rfl, (exec_strictlyFramed h).framed⟩
  · rw [State.advance_reg, State.reg_resultThenFlag, if_neg hx, if_pos rfl]
  · rw [State.advance_reg, State.reg_resultThenFlag, if_pos rfl]

/-- The flag, then the result: V[X] holds the result whatever X is, and VF the flag unless X = F. -/
theorem exec_spec_of_flagThenResult (h : exec i s = .next (s.flagThenResult x flag result).advance) :
    ∃ t, exec i s = .next t ∧ t.reg x = result ∧ (x ≠ vf → t.reg vf = flag) ∧ t.pc = s.pc + 2 ∧ Framed i s t := by
  refine ⟨_, h, ?_, fun hx => ?_, rfl, (exec_strictlyFramed h).framed⟩
  · rw [State.advance_reg, State.reg_flagThenResult, if_pos rfl]
  · rw [State.advance_reg, State.reg_flagThenResult, if_neg hx.symm, if_pos rfl]

end

/-! ### The results as numbers -/

/-- The difference modulo 256 without a modulus: it borrows 256 when the subtrahend is the larger (R117). -/
theorem Byte.toNat_sub_eq_ite (a b : Byte) :
    (a - b).toNat = if b.toNat ≤ a.toNat then a.toNat - b.toNat else a.toNat + 256 - b.toNat := by
  split <;> bv_omega

theorem Byte.toNat_ushiftRight_one (a : Byte) : (a >>> 1).toNat = a.toNat / 2 := by
  rw [BitVec.toNat_ushiftRight, Nat.shiftRight_one]

theorem Byte.toNat_shiftLeft_one (a : Byte) : (a <<< 1).toNat = a.toNat * 2 % 256 := by
  rw [BitVec.toNat_shiftLeft, Nat.shiftLeft_eq, pow_one]

/-! ### Loads, and the sum with a literal (R111 to R113, R143) -/

/-- Settles O31: each writes its byte to V[X] and nothing else. -/
theorem loadsCopyAByte : Obligations.LoadsCopyAByte :=
  fun _ _ _ _ => ⟨exec_spec_of_setReg rfl, exec_spec_of_setReg rfl, exec_spec_of_setReg rfl⟩

/-- Settles O32: the sum of bytes is the sum modulo 256, and V[X] is all that is written. -/
theorem addLiteralWrapsWithoutFlag : Obligations.AddLiteralWrapsWithoutFlag := by
  intro x kk s
  obtain ⟨t, h, hx, hrest⟩ := exec_spec_of_setReg (i := .addVxByte x kk) (s := s) rfl
  exact ⟨t, h, hx ▸ BitVec.toNat_add _ _, hrest⟩

/-! ### Bitwise operations (R114, R115, R121) -/

/-- `exec_spec_of_setReg` for a result given bit by bit. -/
theorem exec_spec_of_bits {i : Instr} {s : State} {x : Reg} {result : Byte} {bit : Nat → Bool}
    (h : exec i s = .next (s.setReg x result).advance) (hbit : ∀ b, result.getLsbD b = bit b) :
    ∃ t, exec i s = .next t ∧ t.pc = s.pc + 2 ∧ Framed i s t ∧ ∀ b < 8, (t.reg x).getLsbD b = bit b := by
  obtain ⟨t, ht, hx, hpc, hf⟩ := exec_spec_of_setReg h
  exact ⟨t, ht, hpc, hf, fun b _ => hx ▸ hbit b⟩

/-- Settles O33: each result has the bits the statement gives, and V[X] is all that is written. -/
theorem bitwiseOperationsAreBitwise : Obligations.BitwiseOperationsAreBitwise :=
  fun _ _ _ => ⟨exec_spec_of_bits rfl fun _ => BitVec.getLsbD_or, exec_spec_of_bits rfl fun _ => BitVec.getLsbD_and,
    exec_spec_of_bits rfl fun _ => BitVec.getLsbD_xor⟩

/-! ### Sum and differences with a flag (R116, R117, R119) -/

/-- Settles O34: the carry is written after the sum, so it stands when both go to VF. -/
theorem addSetsTheCarry : Obligations.AddSetsTheCarry := by
  intro x y s
  obtain ⟨t, h, hx, hvf, hrest⟩ := exec_spec_of_resultThenFlag (i := .addVxVy x y) (s := s) rfl
  exact ⟨t, h, fun hne => hx hne ▸ BitVec.toNat_add _ _, hvf ▸ carryFlag_toNat _ _, hrest⟩

/-- 8XY5 with a = V[X], b = V[Y] and 8XY7 with the two exchanged: difference and comparison as numbers. -/
theorem exec_spec_of_difference {i : Instr} {s : State} {x : Reg} {a b : Byte}
    (h : exec i s = .next (s.flagThenResult x (greaterFlag a b) (a - b)).advance) :
    ∃ t, exec i s = .next t ∧
      (t.reg x).toNat = (if b.toNat ≤ a.toNat then a.toNat - b.toNat else a.toNat + 256 - b.toNat) ∧
      (x ≠ vf → (t.reg vf).toNat = if a.toNat > b.toNat then 1 else 0) ∧ t.pc = s.pc + 2 ∧ Framed i s t := by
  obtain ⟨t, ht, hx, hvf, hrest⟩ := exec_spec_of_flagThenResult h
  exact ⟨t, ht, hx ▸ Byte.toNat_sub_eq_ite a b, fun hne => hvf hne ▸ greaterFlag_toNat a b, hrest⟩

/-- Settles O35: the comparison is written before the difference, so the difference stands when both go to VF. -/
theorem subtractionsSetTheStrictComparison : Obligations.SubtractionsSetTheStrictComparison :=
  fun _ _ _ => ⟨exec_spec_of_difference rfl, exec_spec_of_difference rfl⟩

/-! ### Shifts (R118, R120) -/

/-- Settles O36: the bit shifted out is written before the result, and neither is computed from V[Y]. -/
theorem shiftsIgnoreTheSecondRegister : Obligations.ShiftsIgnoreTheSecondRegister := by
  intro x y s
  constructor
  · obtain ⟨t, h, hx, hvf, hrest⟩ := exec_spec_of_flagThenResult (i := .shrVx x y) (s := s) rfl
    exact ⟨t, h, hx ▸ Byte.toNat_ushiftRight_one _, fun hne => hvf hne ▸ lowBitFlag_toNat _, hrest⟩
  · obtain ⟨t, h, hx, hvf, hrest⟩ := exec_spec_of_flagThenResult (i := .shlVx x y) (s := s) rfl
    exact ⟨t, h, hx ▸ Byte.toNat_shiftLeft_one _, fun hne => hvf hne ▸ highBitFlag_toNat _, hrest⟩

end Sys2Proof.Machine
end

/-! ## Index register and memory: setting I, decimal digits, storing and loading registers (R125 to R132) -/
section
namespace Sys2Proof.Machine

/-! ### Setting I (R125 to R127) -/

/-- One write to I and PC + 2, with the word written read as a number. -/
theorem exec_spec_of_setI {i : Instr} {s : State} {w : Word} {n : Nat} (h : exec i s = .next (s.setI w).advance)
    (hw : w.toNat = n) : ∃ t, exec i s = .next t ∧ t.i.toNat = n ∧ t.pc = s.pc + 2 ∧ Framed i s t :=
  ⟨_, h, hw, rfl, (exec_strictlyFramed h).framed⟩

theorem toNat_add_toWord (w : Word) (b : Byte) : (w + Byte.toWord b).toNat = (w.toNat + b.toNat) % 65536 := by
  rw [BitVec.toNat_add, Byte.toNat_toWord]

/-- The largest glyph address, 5 × 255, is a word, so the product of R127 is exact. -/
theorem toNat_glyphAddress (b : Byte) : (glyphAddress b).toNat = 5 * b.toNat := by
  have hexact : 5 * b.toNat < 65536 := by omega
  simpa [glyphAddress, BitVec.toNat_mul] using hexact

/-- Settles O37: each writes its word to I and nothing else. -/
theorem indexInstructionsSetI : Obligations.IndexInstructionsSetI :=
  fun nnn x s => ⟨exec_spec_of_setI rfl (Addr.toNat_toWord nnn),
    exec_spec_of_setI rfl (toNat_add_toWord s.i (s.reg x)), exec_spec_of_setI rfl (toNat_glyphAddress (s.reg x))⟩

/-! ### The decimal digits (R128, R129) -/

theorem toNat_hundreds (b : Byte) : (hundreds b).toNat = b.toNat / 100 := Nat.mod_eq_of_lt (by omega)

theorem toNat_tens (b : Byte) : (tens b).toNat = b.toNat / 10 % 10 := Nat.mod_eq_of_lt (by omega)

theorem toNat_ones (b : Byte) : (ones b).toNat = b.toNat % 10 := Nat.mod_eq_of_lt (by omega)

/-- Two offsets below 4096 from I name two bytes (R55, R132). -/
theorem effectiveAddress_indexed_ne (w : Word) {j k : Nat} (hjk : j < k) (hk : k < 4096) :
    effectiveAddress (indexed w j) ≠ effectiveAddress (indexed w k) :=
  mt (effectiveAddress_inj (hjk.trans hk) hk) hjk.ne

section
variable {x : Reg} {s t : State}

/-- What FX33's three writes leave at any address; the latest of them stands (R128). -/
theorem memRead_of_exec_ldBVx (h : exec (.ldBVx x) s = .next t) (a : Nat) :
    t.memRead a = if effectiveAddress a = effectiveAddress (indexed s.i 2) then ones (s.reg x)
      else if effectiveAddress a = effectiveAddress (indexed s.i 1) then tens (s.reg x)
      else if effectiveAddress a = effectiveAddress (indexed s.i 0) then hundreds (s.reg x) else s.memRead a := by
  obtain rfl := Host.Outcome.next.inj h
  simp only [State.advance_memRead, State.memRead_memWrite]

/-- The three writes go to three bytes, so each digit stands. -/
theorem digits_of_exec_ldBVx (h : exec (.ldBVx x) s = .next t) :
    t.memRead (indexed s.i 0) = hundreds (s.reg x) ∧ t.memRead (indexed s.i 1) = tens (s.reg x) ∧
    t.memRead (indexed s.i 2) = ones (s.reg x) := by
  have h01 : effectiveAddress (indexed s.i 0) ≠ effectiveAddress (indexed s.i 1) :=
    effectiveAddress_indexed_ne s.i (by decide) (by decide)
  have h02 : effectiveAddress (indexed s.i 0) ≠ effectiveAddress (indexed s.i 2) :=
    effectiveAddress_indexed_ne s.i (by decide) (by decide)
  have h12 : effectiveAddress (indexed s.i 1) ≠ effectiveAddress (indexed s.i 2) :=
    effectiveAddress_indexed_ne s.i (by decide) (by decide)
  refine ⟨?_, ?_, ?_⟩
  · rw [memRead_of_exec_ldBVx h, if_neg h02, if_neg h01, if_pos rfl]
  · rw [memRead_of_exec_ldBVx h, if_neg h12, if_pos rfl]
  · rw [memRead_of_exec_ldBVx h, if_pos rfl]

theorem memRead_of_exec_ldBVx_of_ne (h : exec (.ldBVx x) s = .next t) {a : Nat}
    (ha : ∀ k < 3, effectiveAddress a ≠ effectiveAddress (indexed s.i k)) : t.memRead a = s.memRead a := by
  rw [memRead_of_exec_ldBVx h, if_neg (ha 2 (by decide)), if_neg (ha 1 (by decide)), if_neg (ha 0 (by decide))]

end

/-- Settles O38: the three digits stand in three different bytes, and the digit law is arithmetic. -/
theorem bcdStoresTheDecimalDigits : Obligations.BcdStoresTheDecimalDigits := by
  intro x s
  obtain ⟨t, h, hpc, hf⟩ := exec_pc_and_frame (.ldBVx x) s
  obtain ⟨h0, h1, h2⟩ := digits_of_exec_ldBVx h
  refine ⟨t, h, ?_⟩
  rw [h0, h1, h2, toNat_hundreds, toNat_tens, toNat_ones]
  exact ⟨rfl, rfl, rfl, by omega, by omega, by omega, by omega, fun _ => memRead_of_exec_ldBVx_of_ne h, hpc, hf⟩

/-! ### Storing and loading registers (R130, R131) -/

section
variable {x k : Reg} {s t : State}

/-- `memRead_of_exec_ldMemVx` for a register number. -/
theorem memRead_indexed_of_exec_ldMemVx (h : exec (.ldMemVx x) s = .next t) (hk : k ≤ x) :
    t.memRead (indexed s.i k.toNat) = s.reg k := by
  rw [memRead_of_exec_ldMemVx h (BitVec.le_def.1 hk), BitVec.ofNat_toNat, BitVec.setWidth_eq]

/-- FX55 leaves every byte alone that it does not store to: an offset up to X is a register number (R130). -/
theorem memRead_of_exec_ldMemVx_of_ne (h : exec (.ldMemVx x) s = .next t) {a : Nat}
    (ha : ∀ k : Reg, k ≤ x → effectiveAddress a ≠ effectiveAddress (indexed s.i k.toNat)) :
    t.memRead a = s.memRead a := by
  obtain rfl := Host.Outcome.next.inj h
  obtain ⟨-, -, -, hother⟩ := s.storeRegs_spec (x.toNat + 1) x.isLt
  refine hother a fun k hk => ?_
  have hk4 : (BitVec.ofNat 4 k).toNat = k := Nat.mod_eq_of_lt (by omega)
  exact hk4 ▸ (ha (BitVec.ofNat 4 k) (BitVec.le_def.2 (by omega))).symm

/-- FX65 loads V[k] from I + k, for k up to X (R131). -/
theorem reg_of_exec_ldVxMem (h : exec (.ldVxMem x) s = .next t) (hk : k ≤ x) :
    t.reg k = s.memRead (indexed s.i k.toNat) := by
  obtain rfl := Host.Outcome.next.inj h
  obtain ⟨-, hreg⟩ := s.loadRegs_spec (x.toNat + 1) x.isLt
  exact (hreg k).trans (if_pos (Nat.lt_succ_of_le (BitVec.le_def.1 hk)))

end

/-- Settles O39: V[k] stands at I + k, the other bytes are those no store names. -/
theorem storeRegistersFromIUp : Obligations.StoreRegistersFromIUp := by
  intro x s
  obtain ⟨t, h, hpc, hf⟩ := exec_pc_and_frame (.ldMemVx x) s
  exact ⟨t, h, fun _ => memRead_indexed_of_exec_ldMemVx h, fun _ => memRead_of_exec_ldMemVx_of_ne h, hpc, hf⟩

/-- Settles O40: V[k] is the byte at I + k, and the frame of FX65 holds the registers above X. -/
theorem loadRegistersFromIUp : Obligations.LoadRegistersFromIUp := by
  intro x s
  obtain ⟨t, h, hpc, hf⟩ := exec_pc_and_frame (.ldVxMem x) s
  exact ⟨t, h, fun _ => reg_of_exec_ldVxMem h, hpc, hf⟩

/-- States with the same memory list and the same font read the same bytes. -/
theorem State.memRead_eq_of_mem_of_font {s t : State} (hm : t.mem = s.mem) (hf : t.font = s.font) (a : Nat) :
    t.memRead a = s.memRead a := by
  simp only [State.memRead, hm, hf]

/-- Settles O41: FX55 leaves I alone, so FX65 reads from the addresses that FX55 stored to. -/
theorem storeThenLoadBringsTheRegistersBack : Obligations.StoreThenLoadBringsTheRegistersBack := by
  intro x s t u hstore hm hf hi
  obtain ⟨r, hload⟩ := exec_completes (.ldVxMem x) u
  have his : u.i = s.i := hi.trans ((exec_strictlyFramed hstore).parts .index (by simp [writtenParts]))
  refine ⟨r, hload, fun k hk => ?_⟩
  calc r.reg k = u.memRead (indexed u.i k.toNat) := reg_of_exec_ldVxMem hload hk
    _ = t.memRead (indexed s.i k.toNat) := by rw [his, State.memRead_eq_of_mem_of_font hm hf]
    _ = s.reg k := memRead_indexed_of_exec_ldMemVx hstore hk

end Sys2Proof.Machine
end

/-! ## Display: clearing the screen and drawing a sprite (R135 to R138) -/
section
namespace Sys2Proof.Machine

/-! ### What an instruction leaves to the next draw (R38) -/

namespace Framed

variable {i : Instr} {s t : State}

theorem width (h : Framed i s t) : t.width = s.width := congrArg resWidth (h.1 .resolution (resolution_not_written i))

theorem height (h : Framed i s t) : t.height = s.height :=
  congrArg resHeight (h.1 .resolution (resolution_not_written i))

/-- An instruction that writes neither I nor memory leaves a sprite's landing cells as they were. -/
theorem litCells (h : Framed i s t) (hi : Part.index ∉ writtenParts i) (hm : Part.memory ∉ writtenParts i)
    (vx vy : Byte) (n : Nat) : t.litCells vx vy n = s.litCells vx vy n := by
  have hindex : t.i = s.i := h.1 .index hi
  have hmem : ∀ a, t.memRead a = s.memRead a := h.1 .memory hm
  simp only [State.litCells, h.width, h.height, hindex, hmem]

end Framed

/-! ### Clearing the screen (R135) -/

theorem pixel_of_exec_cls {s t : State} (h : exec .cls s = .next t) (px py : Nat) : t.pixel px py = false := by
  obtain rfl := Host.Outcome.next.inj h
  exact Screen.pixel_blank _ _ px py

/-- Settles O42: the blank screen of W × H cells, and the PC and the frame of every instruction. -/
theorem clearScreenClearsEveryCell : Obligations.ClearScreenClearsEveryCell := by
  intro s
  obtain ⟨t, h, hpc, hf⟩ := exec_pc_and_frame .cls s
  refine ⟨t, h, pixel_of_exec_cls h, ?_, hpc, hf⟩
  obtain rfl := Host.Outcome.next.inj h
  exact Screen.sized_blank s.width s.height

/-! ### Drawing on a screen of any size (R136) -/

theorem State.Inv.width_pos {s : State} (h : s.Inv) : 0 < s.width :=
  of_decide_eq_true (Bool.and_eq_true_iff.1 h.res).1

theorem State.Inv.height_pos {s : State} (h : s.Inv) : 0 < s.height :=
  of_decide_eq_true (Bool.and_eq_true_iff.1 h.res).2

/-- Every 1 bit of a sprite lands on the screen of a machine that meets the invariant. -/
theorem State.Inv.litCells_on_screen {s : State} (h : s.Inv) {vx vy : Byte} {n : Nat} {d : Nat × Nat}
    (hd : d ∈ s.litCells vx vy n) : d.1 < s.width ∧ d.2 < s.height :=
  State.litCells_on_screen h.width_pos h.height_pos vx vy n d hd

/-- What a sprite does to the screen of a machine that meets the invariant, and when it collides. -/
theorem State.Inv.blit_spec {s : State} (h : s.Inv) (vx vy : Byte) (n : Nat) :
    (∀ px py, (s.blit vx vy n).1.pixel px py =
      (s.pixel px py ^^ decide ((s.litCells vx vy n).count (px, py) % 2 = 1))) ∧
    ((s.blit vx vy n).2 = true ↔
      ∃ d ∈ s.litCells vx vy n, s.pixel d.1 d.2 = true ∨ 2 ≤ (s.litCells vx vy n).count d) := by
  obtain ⟨-, hpixel, hhit⟩ := Blit.flips_spec _ (fun _ => h.litCells_on_screen (vx := vx) (vy := vy) (n := n))
    s.fb false h.fb
  simp only [Bool.false_eq_true, false_or] at hhit
  rw [State.blit_eq_flips]
  exact ⟨hpixel, hhit⟩

section
variable {x y : Reg} {n : Nibble} {s t : State}

/-- DXYN flips a cell exactly when an odd number of 1 bits land on it. -/
theorem pixel_of_exec_drw (hs : s.Inv) (h : exec (.drwVxVyNibble x y n) s = .next t) (px py : Nat) :
    t.pixel px py =
      (s.pixel px py ^^ decide ((s.litCells (s.reg x) (s.reg y) n.toNat).count (px, py) % 2 = 1)) := by
  obtain rfl := Host.Outcome.next.inj h
  exact (hs.blit_spec _ _ _).1 px py

/-- After DXYN VF is the flag of the whole sprite's collision. -/
theorem reg_vf_of_exec_drw (h : exec (.drwVxVyNibble x y n) s = .next t) :
    t.reg vf = flagByte (s.blit (s.reg x) (s.reg y) n.toNat).2 := by
  obtain rfl := Host.Outcome.next.inj h
  exact (State.reg_setReg _ vf vf _).trans (if_pos rfl)

theorem reg_vf_one_or_zero_of_exec_drw (h : exec (.drwVxVyNibble x y n) s = .next t) :
    t.reg vf = 1 ∨ t.reg vf = 0 :=
  reg_vf_of_exec_drw h ▸ flagByte_zero_or_one _

/-- DXYN collides exactly when a 1 bit lands on a set cell, or two land on one cell. -/
theorem reg_vf_eq_one_iff_of_exec_drw (hs : s.Inv) (h : exec (.drwVxVyNibble x y n) s = .next t) :
    t.reg vf = 1 ↔ ∃ d ∈ s.litCells (s.reg x) (s.reg y) n.toNat,
      s.pixel d.1 d.2 = true ∨ 2 ≤ (s.litCells (s.reg x) (s.reg y) n.toNat).count d := by
  rw [reg_vf_of_exec_drw h, flagByte_eq_one]
  exact (hs.blit_spec _ _ _).2

end

/-- Settles O43: a sprite's effect is that of flipping the cells of its 1 bits in order. -/
theorem drawFlipsTheLitCells : Obligations.DrawFlipsTheLitCells := by
  intro x y n s hs
  obtain ⟨t, h, hpc, hf⟩ := exec_pc_and_frame (.drwVxVyNibble x y n) s
  have hsize := (hs.of_exec h).fb
  rw [hf.width, hf.height] at hsize
  exact ⟨t, h, pixel_of_exec_drw hs h,
    ⟨reg_vf_one_or_zero_of_exec_drw h, reg_vf_eq_one_iff_of_exec_drw hs h⟩, hsize, hpc, hf⟩

/-! ### Where the bits of a sprite that fits on the screen land (R137) -/

/-- Fewer columns, or rows, than the screen has land on different coordinates, wherever the sprite starts. -/
theorem wrapped_inj {start : Byte} {size j k : Nat} (hj : j < size) (hk : k < size)
    (h : wrapped start j size = wrapped start k size) : j = k :=
  Nat.ModEq.eq_of_lt_of_lt (Nat.ModEq.add_left_cancel' start.toNat h) hj hk

theorem State.mem_litCells {s : State} {vx vy : Byte} {n : Nat} {d : Nat × Nat} :
    d ∈ s.litCells vx vy n ↔ ∃ r < n, ∃ c < 8, spriteBit (s.memRead (indexed s.i r)) c = true ∧
      d = (wrapped vx c s.width, wrapped vy r s.height) := by
  simp only [State.litCells, List.mem_flatMap, List.mem_map, List.mem_filter, List.mem_range, and_assoc, eq_comm]

/-- The cell of row r and column c is hit exactly when that bit of the sprite is 1. -/
theorem State.landing_mem_litCells_iff {s : State} {vx vy : Byte} {n r c : Nat} (hw : 8 ≤ s.width) (hn : n ≤ s.height)
    (hr : r < n) (hc : c < 8) :
    (wrapped vx c s.width, wrapped vy r s.height) ∈ s.litCells vx vy n
      ↔ spriteBit (s.memRead (indexed s.i r)) c = true := by
  rw [State.mem_litCells]
  constructor
  · rintro ⟨r', hr', c', hc', hbit, hd⟩
    obtain ⟨hx, hy⟩ := Prod.mk.inj hd
    obtain rfl := wrapped_inj (hc.trans_le hw) (hc'.trans_le hw) hx
    obtain rfl := wrapped_inj (hr.trans_le hn) (hr'.trans_le hn) hy
    exact hbit
  · intro hbit
    exact ⟨r, hr, c, hc, hbit, rfl⟩

/-- Pairs listed row by row, one row after another, are listed once each when no two columns and no two rows
share a coordinate. -/
theorem nodup_rows {m w : Nat} {p : Nat → Nat → Bool} {f g : Nat → Nat}
    (hf : ∀ j < w, ∀ k < w, f j = f k → j = k) (hg : ∀ j < m, ∀ k < m, g j = g k → j = k) :
    ((List.range m).flatMap fun r => ((List.range w).filter (p r)).map fun c => (f c, g r)).Nodup := by
  refine List.nodup_flatMap.2 ⟨fun r _ => ?_, ?_⟩
  · refine (List.nodup_range.filter _).map_on fun j hj k hk hjk => ?_
    exact hf j (List.mem_range.1 (List.mem_of_mem_filter hj)) k (List.mem_range.1 (List.mem_of_mem_filter hk))
      (Prod.mk.inj hjk).1
  · refine List.nodup_range.imp_of_mem fun {q r} hq hr hne => ?_
    rintro d hdq hdr
    obtain ⟨_, -, rfl⟩ := List.mem_map.1 hdq
    obtain ⟨_, -, hd⟩ := List.mem_map.1 hdr
    exact hne (hg q (List.mem_range.1 hq) r (List.mem_range.1 hr) (Prod.mk.inj hd).2.symm)

/-- No two bits of a sprite that fits land on one cell. -/
theorem State.nodup_litCells {s : State} {n : Nat} (hw : 8 ≤ s.width) (hn : n ≤ s.height) (vx vy : Byte) :
    (s.litCells vx vy n).Nodup :=
  nodup_rows (fun _ hj _ hk => wrapped_inj (hj.trans_le hw) (hk.trans_le hw))
    (fun _ hj _ hk => wrapped_inj (hj.trans_le hn) (hk.trans_le hn))

/-! ### Drawing a sprite that fits on the screen (R138) -/

section
variable {x y : Reg} {n : Nibble} {s t : State}

/-- A sprite that fits flips each cell that one of its 1 bits lands on. -/
theorem pixel_of_exec_drw_of_fits (hs : s.Inv) (hw : 8 ≤ s.width) (hn : n.toNat ≤ s.height)
    (h : exec (.drwVxVyNibble x y n) s = .next t) (px py : Nat) :
    t.pixel px py = (s.pixel px py ^^ decide ((px, py) ∈ s.litCells (s.reg x) (s.reg y) n.toNat)) := by
  rw [pixel_of_exec_drw hs h, (State.nodup_litCells hw hn _ _).count]
  split <;> simp [*]

/-- R138 (c): a sprite that fits collides exactly when one of its 1 bits lands on a set cell. -/
theorem reg_vf_eq_one_iff_of_exec_drw_of_fits (hs : s.Inv) (hw : 8 ≤ s.width) (hn : n.toNat ≤ s.height)
    (h : exec (.drwVxVyNibble x y n) s = .next t) :
    t.reg vf = 1 ↔ ∃ d ∈ s.litCells (s.reg x) (s.reg y) n.toNat, s.pixel d.1 d.2 = true := by
  rw [reg_vf_eq_one_iff_of_exec_drw hs h]
  refine exists_congr fun d => and_congr_right fun _ => or_iff_left ?_
  have hcount := List.nodup_iff_count_le_one.1 (State.nodup_litCells hw hn (s.reg x) (s.reg y)) d
  omega

end

/-- Settles O44: on a clear screen the cells that are 1 after the draw are those the sprite's 1 bits land on. -/
theorem drawOnAClearScreenShowsTheSprite : Obligations.DrawOnAClearScreenShowsTheSprite := by
  intro x y n s t u hs hw hn hcls hdrw
  have hclear := pixel_of_exec_cls hcls
  have hf : Framed .cls s t := (exec_strictlyFramed hcls).framed
  have hcells : t.litCells (t.reg x) (t.reg y) n.toNat = s.litCells (s.reg x) (s.reg y) n.toNat := by
    rw [hf.litCells (by decide) (by decide), hf.2 x id, hf.2 y id]
  have hwt : 8 ≤ t.width := hf.width ▸ hw
  have hnt : n.toNat ≤ t.height := hf.height ▸ hn
  have ht : t.Inv := hs.of_exec hcls
  have hpixel : ∀ px py, u.pixel px py = decide ((px, py) ∈ s.litCells (s.reg x) (s.reg y) n.toNat) := by
    intro px py
    rw [pixel_of_exec_drw_of_fits ht hwt hnt hdrw, hclear, hcells, Bool.false_xor]
  refine ⟨?_, fun r hr c hc => ?_, fun px py hoff => ?_⟩
  · refine (reg_vf_one_or_zero_of_exec_drw hdrw).resolve_left fun hone => ?_
    obtain ⟨d, -, hset⟩ := (reg_vf_eq_one_iff_of_exec_drw_of_fits ht hwt hnt hdrw).1 hone
    exact Bool.false_ne_true ((hclear d.1 d.2).symm.trans hset)
  · rw [hpixel, Bool.eq_iff_iff, decide_eq_true_iff]
    exact State.landing_mem_litCells_iff hw hn hr hc
  · rw [hpixel, decide_eq_false_iff_not, State.mem_litCells]
    rintro ⟨r, hr, c, hc, -, hd⟩
    exact hoff r hr c hc hd

/-- Settles O45: the second draw flips the cells of the first, so each is back, and was 1 in between exactly when it was 0
before. -/
theorem drawTwiceRestoresTheScreen : Obligations.DrawTwiceRestoresTheScreen := by
  intro x y n s t u hs hw hn hx hy hfirst hsecond
  have hf : Framed (.drwVxVyNibble x y n) s t := (exec_strictlyFramed hfirst).framed
  have hcells : t.litCells (t.reg x) (t.reg y) n.toNat = s.litCells (s.reg x) (s.reg y) n.toNat := by
    rw [hf.litCells (by simp [writtenParts]) (by simp [writtenParts]), hf.2 x hx, hf.2 y hy]
  have hwt : 8 ≤ t.width := hf.width ▸ hw
  have hnt : n.toNat ≤ t.height := hf.height ▸ hn
  have ht : t.Inv := hs.of_exec hfirst
  have hpixel := pixel_of_exec_drw_of_fits hs hw hn hfirst
  constructor
  · intro px py
    rw [pixel_of_exec_drw_of_fits ht hwt hnt hsecond, hcells, hpixel, Bool.xor_assoc, Bool.xor_self, Bool.xor_false]
  · rw [reg_vf_eq_one_iff_of_exec_drw_of_fits ht hwt hnt hsecond, hcells]
    refine exists_congr fun d => and_congr_right fun hd => ?_
    rw [hpixel, decide_eq_true hd, Bool.xor_true, Bool.not_eq_true']

/-! ### How many cells a draw changes (R138 (d)) -/

/-- Bit 7 is column 0, so the columns of a sprite row are its bits in reverse order. -/
theorem countP_spriteBit (b : Byte) :
    (List.range 8).countP (spriteBit b) = (List.range 8).countP fun k => b.getLsbD k := by
  have hcolumns : (List.range 8).map (7 - ·) = (List.range 8).reverse := by decide
  calc (List.range 8).countP (spriteBit b)
      = ((List.range 8).map (7 - ·)).countP (fun k => b.getLsbD k) := List.countP_map.symm
    _ = (List.range 8).countP (fun k => b.getLsbD k) := by rw [hcolumns, List.countP_reverse]

/-- A sprite's landing cells are as many as the 1 bits of its rows. -/
theorem State.length_litCells (s : State) (vx vy : Byte) (n : Nat) :
    (s.litCells vx vy n).length =
      ((List.range n).map fun r => (List.range 8).countP fun b => (s.memRead (indexed s.i r)).getLsbD b).sum := by
  simp only [State.litCells, List.length_flatMap, List.length_map, ← List.countP_eq_length_filter, countP_spriteBit]

/-- A list of different cells of a screen is as long as the count of its cells row by row. -/
theorem length_scan {w h : Nat} {cells : List (Nat × Nat)} (hnodup : cells.Nodup)
    (hscreen : ∀ d ∈ cells, d.1 < w ∧ d.2 < h) :
    ((List.range h).flatMap fun py => (List.range w).filter fun px => decide ((px, py) ∈ cells)).length
      = cells.length := by
  have hrows := nodup_rows (m := h) (w := w) (p := fun py px => decide ((px, py) ∈ cells)) (f := id) (g := id)
    (fun _ _ _ _ => id) (fun _ _ _ _ => id)
  have hperm := (List.perm_ext_iff_of_nodup hrows hnodup).2 fun d => by
    simp only [List.mem_flatMap, List.mem_map, List.mem_filter, List.mem_range, decide_eq_true_eq, id]
    constructor
    · rintro ⟨py, -, px, ⟨-, hd⟩, rfl⟩
      exact hd
    · intro hd
      exact ⟨d.2, (hscreen d hd).2, d.1, ⟨(hscreen d hd).1, hd⟩, rfl⟩
  rw [← hperm.length_eq]
  simp only [List.length_flatMap, List.length_map]

/-- Settles O46: the cells that differ are those the 1 bits land on, each of them hit by one bit. -/
theorem drawChangesAsManyCellsAsBits : Obligations.DrawChangesAsManyCellsAsBits := by
  intro x y n s t hs hw hn h
  refine ⟨reg_vf_eq_one_iff_of_exec_drw_of_fits hs hw hn h, ?_⟩
  have hdiffer : ∀ px py, (t.pixel px py != s.pixel px py)
      = decide ((px, py) ∈ s.litCells (s.reg x) (s.reg y) n.toNat) := by
    intro px py
    rw [pixel_of_exec_drw_of_fits hs hw hn h]
    cases s.pixel px py <;> simp
  simp only [hdiffer]
  rw [length_scan (State.nodup_litCells hw hn _ _) fun _ => hs.litCells_on_screen, State.length_litCells]

end Sys2Proof.Machine
end

/-! ## Random, keypad and timers: the random byte, key skips, key wait, DT and ST (R140 to R147) -/
section
namespace Sys2Proof.Machine

/-! ### The random byte (R140) -/

theorem masked_and_not (r kk : Byte) : r &&& kk &&& ~~~kk = 0 := by
  rw [BitVec.and_assoc, BitVec.and_not_self, and_free]

/-- An outcome that is CXKK's effect with the byte r: r masked in V[X], one more draw, PC + 2, and CXKK's frame. -/
theorem rnd_spec_of_takeRandom {x : Reg} {kk r : Byte} {s : State} {o : Result}
    (h : o = .next (s.takeRandom x kk r).advance) :
    ∃ t, o = .next t ∧ t.reg x = r &&& kk ∧ t.reg x &&& ~~~kk = 0 ∧ t.draws = s.draws + 1 ∧ t.pc = s.pc + 2 ∧
      Framed (.rndVxByte x kk) s t := by
  have hx : (s.takeRandom x kk r).advance.reg x = r &&& kk := (State.reg_takeRandom s x x kk r).trans (if_pos rfl)
  have hframe : StrictlyFramed (.rndVxByte x kk) s (s.takeRandom x kk r) :=
    (StrictlyFramed.refl (.rndVxByte x kk) s).takeRandom (.head _) rfl kk r
  exact ⟨_, h, hx, hx ▸ masked_and_not r kk, rfl, rfl, hframe.advance.framed⟩

theorem stepWith_of_rnd {s : State} {x : Reg} {kk : Byte} (h : decode s.fetch = .ok (.rndVxByte x kk)) (rnd : Byte) :
    stepWith rnd s = .next (s.takeRandom x kk rnd).advance := by
  simp only [stepWith, h]

/-- Settles O48: STEP(rnd) at a CXKK is CXKK's effect with the byte given. -/
theorem randomByteIsMasked : Obligations.RandomByteIsMasked := by
  intro rnd x kk s hd
  obtain ⟨t, h, hx, hmask, -, hrest⟩ := rnd_spec_of_takeRandom (stepWith_of_rnd hd rnd)
  exact ⟨t, h, hx, hmask, hrest⟩

/-- Settles O49: CXKK is its effect with the byte of the state's draw, whatever that byte is. -/
theorem freeRandomByteIsMasked : Obligations.FreeRandomByteIsMasked :=
  fun _ _ _ => rnd_spec_of_takeRandom rfl

/-! ### The key skips (R141, R142, R147) -/

/-- Settles O50: the table's PC for each skip, read at the key k; EXA1 tests for a key that is not pressed, so the
statement has its branches exchanged. -/
theorem keySkipsTestTheLevel : Obligations.KeySkipsTestTheLevel := by
  intro x s k hk
  obtain rfl : k = keyNumber (s.reg x) := Fin.ext hk
  refine ⟨exec_pc_and_frame (.skpVx x) s, ?_⟩
  simpa only [pcAfter, State.keyDown, ← Bool.not_eq_true, ite_not] using exec_pc_and_frame (.sknpVx x) s

/-! ### The key wait (R144) -/

/-- A key number is at most 15, so the byte that holds it is exact. -/
theorem toNat_keyByte (k : Fin 16) : (BitVec.ofNat 8 k.val).toNat = k.val := Nat.mod_eq_of_lt (by omega)

/-- Settles O51: the two cases of FX0A, told apart by the first pressed key, which is the least. -/
theorem keyWaitTakesTheLeastPressedKey : Obligations.KeyWaitTakesTheLeastPressedKey := by
  intro x s
  refine ⟨fun hnone => exec_ldVxK_of_none (State.firstKey_eq_none.2 hnone), fun k hk hleast => ?_⟩
  have hfirst : s.firstKey = some k := State.firstKey_isSome_least hk hleast
  obtain ⟨t, h, hx, hrest⟩ := exec_spec_of_setReg (exec_ldVxK_of_some (x := x) hfirst)
  exact ⟨t, h, hx ▸ toNat_keyByte k, hrest⟩

/-! ### The timers (R145, R146) -/

/-- SOUND is on exactly while ST is not 0 (R166). -/
theorem State.sound_eq_true_iff {s : State} : s.sound = true ↔ s.st ≠ 0 := bne_iff_ne

/-- Settles O52: each writes V[X] to its timer and nothing else, and SOUND follows ST. -/
theorem timerInstructionsSetTheTimers : Obligations.TimerInstructionsSetTheTimers := by
  intro x s
  constructor
  · have h : exec (.ldDTVx x) s = .next (s.setDT (s.reg x)).advance := rfl
    exact ⟨_, h, rfl, rfl, (exec_strictlyFramed h).framed⟩
  · have h : exec (.ldSTVx x) s = .next (s.setST (s.reg x)).advance := rfl
    exact ⟨_, h, rfl, State.sound_eq_true_iff, rfl, (exec_strictlyFramed h).framed⟩

end Sys2Proof.Machine
end

/-! ## Exceptions and the host's operations: safe runs, TICK, SET_KEY and the image check (R154, R155, R163, R167) -/
section
namespace Sys2Proof.Machine

/-! ### Safe runs (R33, R155) -/

/-- ERR = 0 says that no condition's bit is set: ERR has no other bits (R33). -/
theorem State.noError_iff {s : State} : s.noError ↔ ∀ c, s.raised c = false := by
  constructor
  · intro h c
    have h0 : s.err = 0 := h
    simp [State.raised, h0]
  · intro h
    refine BitVec.eq_of_getLsbD_eq fun j hj => ?_
    match j, hj with
    | 0, _ => exact h .unknownInstruction
    | 1, _ => exact h .stackOverflow
    | 2, _ => exact h .stackUnderflow

/-- The bits are sticky, so ERR = 0 after a step was ERR = 0 before it. -/
theorem State.noError.of_step {s t : State} (ht : t.noError) (h : step s = .next t) : s.noError := by
  rw [State.noError_iff] at ht ⊢
  intro c
  exact Bool.eq_false_iff.2 fun hc => Bool.eq_false_iff.1 (ht c) ((step_raised_iff h c).2 (.inl hc))

/-- ERR = 0 goes back from the end of a run to its start, and no step between raised a condition. -/
theorem State.noError.of_run {n : Nat} {s t : State} (ht : t.noError) (h : Sys2Proof.core.run n s = .next t) :
    s.noError ∧ safeRun n s := by
  induction n generalizing s with
  | zero => exact ⟨run_zero.1 h ▸ ht, trivial⟩
  | succ n ih =>
    obtain ⟨u, hstep, hrun⟩ := run_succ.1 h
    obtain ⟨hu, hsafe⟩ := ih hrun
    have hs : s.noError := hu.of_step hstep
    exact ⟨hs, u, hstep, hu.trans hs.symm, hsafe⟩

/-- Settles O17, by induction on the length of the run: ERR = 0 holds before and after each of its steps. -/
theorem errZeroAtTheEndMeansASafeRun : Obligations.ErrZeroAtTheEndMeansASafeRun :=
  fun _ _ _ h ht => (ht.of_run h).2

/-! ### TICK (R163, R164) -/

theorem perform_tick {c : Session} {s : State} (h : c.state = some s) :
    perform .tick c = .next { c with state := some s.tick } := by
  simp [perform, h, Session.outcome]

theorem ticked_toNat (b : Byte) : (ticked b).toNat = b.toNat - 1 := by
  unfold ticked
  split
  · simp [*]
  · bv_omega

/-- A timer that each TICK takes down by one is taken down by n in n TICKs, floored at zero. -/
theorem toNat_iterate_tick {timer : State → Byte} (h : ∀ s : State, timer s.tick = ticked (timer s)) (n : Nat)
    (s : State) : (timer (State.tick^[n] s)).toNat = (timer s).toNat - n := by
  have hpred : Function.Semiconj (fun s => (timer s).toNat) State.tick Nat.pred := fun s =>
    (congrArg BitVec.toNat (h s)).trans (ticked_toNat (timer s))
  exact (hpred.iterate_right n s).trans (Nat.pred_iterate _ n)

/-- Settles O53: TICK is total and writes DT and ST only, and each of the two counts down. -/
theorem ticksCountDownToZero : Obligations.TicksCountDownToZero :=
  ⟨fun _ _ => perform_tick, fun _ => rfl,
    fun n s => ⟨toNat_iterate_tick State.tick_dt n s, toNat_iterate_tick State.tick_st n s⟩⟩

/-! ### SET_KEY (R167) -/

theorem perform_setKey {c : Session} {s : State} (h : c.state = some s) (index : Nat) (pressed : Bool) :
    perform (.setKey index pressed) c = .next { c with state := some (s.setKey index pressed) } := by
  simp [perform, h, Session.outcome]

theorem State.setKey_rest (s : State) (index : Nat) (pressed : Bool) :
    s.setKey index pressed = { s with key := (s.setKey index pressed).key } := by
  unfold State.setKey; split <;> rfl

/-- No key is numbered 16 or more, so such an index leaves every level as it was. -/
theorem State.getElem_key_setKey (s : State) (index : Nat) (pressed : Bool) (k : Fin 16) :
    (s.setKey index pressed).key[k] = if k.val = index then pressed else s.key[k] := by
  unfold State.setKey
  split
  · simp [Vector.getElem_set, eq_comm (a := index)]
  · rw [if_neg (by omega)]

/-- Settles O54: SET_KEY is total, writes KEY only, and of KEY the flag with the index given. -/
theorem setKeyChangesOneFlag : Obligations.SetKeyChangesOneFlag := by
  intro c s index pressed h
  exact ⟨_, perform_setKey h index pressed, s.setKey_rest index pressed, s.getElem_key_setKey index pressed⟩

/-! ### RESET's check of the image (R154, R176) -/

/-- A session goes on exactly when the operation on its state answers a next state. -/
theorem Session.outcome_eq_next_iff {c d : Session} {r : Result} :
    c.outcome r = .next d ↔ ∃ t, r = .next t ∧ d = { c with state := some t } := by
  cases r <;> simp [Session.outcome, eq_comm (a := d)]

theorem reset_of_long (font : Font) (draws : Nat) {res : Word} {image : List Byte} (hr : resSupported res = true)
    (hl : 3584 < image.length) : reset font draws res image = .fault .loadError := by
  have hf : imageFits image = false := decide_eq_false (Nat.not_le.2 hl)
  simp [reset, hr, hf]

/-- Settles O56: RESET answers a next state for an image that fits, and a longer one is a fault, which leaves the
session. -/
theorem resetChecksTheImageSize : Obligations.ResetChecksTheImageSize := by
  intro c res image hr
  have hperform : perform (.reset res image) c = c.outcome (reset c.font c.draws res image) := rfl
  constructor
  · simp [hperform, Session.outcome_eq_next_iff, reset_eq_next_iff, hr]
  · intro hl
    have hfault : perform (.reset res image) c = .fault .loadError := by
      rw [hperform, reset_of_long _ _ hr hl, Session.outcome]
    exact ⟨hfault, by rw [Session.after, hfault]⟩

end Sys2Proof.Machine
end

/-! ## Reset and the end of a run: the un-reset machine, the jump to itself (R177, R181) -/
section
namespace Sys2Proof.Machine

/-! ### STEPs from the end of a run (R109, R181) -/

/-- The instruction at the end of a run is a jump to PC itself. -/
theorem step_of_ended {s : State} (h : s.ended = true) : step s = .next s := by
  obtain ⟨nnn, hd, hpc⟩ := State.ended_iff.1 h
  exact selfJumpChangesNothing nnn s hd (hpc ▸ Addr.toNat_toWord nnn)

theorem stepWith_of_ended {s : State} (h : s.ended = true) (rnd : Byte) : stepWith rnd s = .next s := by
  obtain ⟨nnn, hd, -⟩ := State.ended_iff.1 h
  rw [stepWith_of_not_rnd (by simp [hd]) rnd, step_of_ended h]

theorem run_of_ended {s : State} (h : s.ended = true) (n : Nat) : Sys2Proof.core.run n s = .next s := by
  induction n with
  | zero => exact run_zero.2 rfl
  | succ n ih => exact run_succ.2 ⟨s, step_of_ended h, ih⟩

/-! ### A run ends in one state (R181) -/

/-- The steps that one of two ended runs from `s` makes beyond the other start at an end, where nothing changes. -/
theorem runEnds.eq_of_le {n m : Nat} {s t u : State} (ht : runEnds n s t) (hu : runEnds m s u) (hnm : n ≤ m) : t = u := by
  obtain ⟨k, rfl⟩ := Nat.exists_eq_add_of_le hnm
  have hrun : Sys2Proof.core.run k t = .next u := (run_add ht.1 k).symm.trans hu.1
  exact Host.Outcome.next.inj ((run_of_ended ht.2 k).symm.trans hrun)

/-- Settles O59: the longer of the two runs goes on from the end of the shorter. -/
theorem runEndsInOneState : Obligations.RunEndsInOneState := by
  intro n m s t u ht hu
  obtain hnm | hmn := Nat.le_total n m
  · exact ht.eq_of_le hu hnm
  · exact (hu.eq_of_le ht hmn).symm

/-! ### The host's operations from the end of a run (R163, R167, R181) -/

/-- `t` is `s` in everything but DT, ST and KEY. -/
def State.SameButTimersAndKeys (s t : State) : Prop := t = { s with dt := t.dt, st := t.st, key := t.key }

namespace State.SameButTimersAndKeys

theorem refl (s : State) : s.SameButTimersAndKeys s := rfl

theorem trans {s t u : State} (h : s.SameButTimersAndKeys t) (k : t.SameButTimersAndKeys u) :
    s.SameButTimersAndKeys u := by
  unfold SameButTimersAndKeys at h k ⊢
  calc u = { t with dt := u.dt, st := u.st, key := u.key } := k
    _ = { s with dt := u.dt, st := u.st, key := u.key } := by rw [h]

theorem tick (s : State) : s.SameButTimersAndKeys s.tick := rfl

theorem setKey (s : State) (index : Nat) (pressed : Bool) : s.SameButTimersAndKeys (s.setKey index pressed) := by
  unfold SameButTimersAndKeys
  rw [s.setKey_rest index pressed]

/-- Whether a run has ended is read from PC and the word fetched there alone. -/
theorem ended_eq {s t : State} (h : s.SameButTimersAndKeys t) : t.ended = s.ended := by
  unfold SameButTimersAndKeys at h
  rw [h]
  rfl

end State.SameButTimersAndKeys

theorem Session.Reaches.sameButTimersAndKeys {c : Session} {op : HostOp} {s t : State} (ht : c.Reaches op t)
    (hop : ∀ res image, op ≠ .reset res image) (hs : c.state = some s) (he : s.ended = true) :
    s.SameButTimersAndKeys t := by
  cases ht with
  | reset => exact absurd rfl (hop _ _)
  | step hs' h =>
    obtain rfl := Option.some.inj (hs.symm.trans hs')
    obtain rfl := Host.Outcome.next.inj ((stepWith_of_ended he _).symm.trans h)
    exact .refl s
  | tick hs' =>
    obtain rfl := Option.some.inj (hs.symm.trans hs')
    exact .tick s
  | setKey hs' index pressed =>
    obtain rfl := Option.some.inj (hs.symm.trans hs')
    exact .setKey s index pressed

/-- What holds of a session's state, and of each state an operation of `ops` reaches from one where it holds, holds of the
state after all of them. -/
theorem Session.run_induction {P : State → Prop} {c : Session} {ops : List HostOp} {s : State} (hs : c.state = some s)
    (h0 : P s) (hP : ∀ d : Session, ∀ op ∈ ops, ∀ t u, d.state = some t → P t → d.Reaches op u → P u) :
    ∃ t, (c.run ops).state = some t ∧ P t := by
  refine List.foldlRecOn (motive := fun d : Session => ∃ t, d.state = some t ∧ P t) ops Session.after ⟨s, hs, h0⟩
    fun d hd op hop => ?_
  obtain ⟨t, hdt, ht⟩ := hd
  obtain h | ⟨u, hu, h⟩ := d.after_cases op <;> rw [h]
  · exact ⟨t, hdt, ht⟩
  · exact ⟨u, rfl, hP d op hop t u hdt ht hu⟩

/-- Settles O58, for the host's operations by induction on them: each keeps all that `ended` reads, so the next STEP is
again the jump to itself. -/
theorem endedRunStaysEnded : Obligations.EndedRunStaysEnded := by
  refine ⟨fun s n he => ⟨run_of_ended he n, stepWith_of_ended he⟩, fun c ops s hops hs he => ?_⟩
  obtain ⟨t, ht, hst⟩ : ∃ t, (c.run ops).state = some t ∧ s.SameButTimersAndKeys t :=
    Session.run_induction hs (.refl s) fun d op hop t u hdt hst hu =>
      hst.trans (hu.sameButTimersAndKeys (hops op hop) hdt (hst.ended_eq.trans he))
  exact ⟨t, ht, hst.ended_eq.trans he, hst⟩

/-! ### Before the first successful RESET (R177) -/

theorem perform_of_no_state {c : Session} {op : HostOp} (hc : c.state = none)
    (hop : ∀ res image, op ≠ .reset res image) : perform op c = .refused .notReset := by
  cases op with
  | reset res image => exact absurd rfl (hop res image)
  | step | tick | setKey => simp only [perform, hc]

/-- Settles O57: a refused operation leaves the session. -/
theorem nothingButResetBeforeReset : Obligations.NothingButResetBeforeReset := by
  intro c op hc hop
  have h : perform op c = .refused .notReset := perform_of_no_state hc hop
  exact ⟨h, by rw [Session.after, h]⟩

end Sys2Proof.Machine
end
